-- ==== Sys2Proof/Word.lean ====
section
/-! DEFINITION. The word, byte and offset types of the block. Registers and the bus data path are 64 bits wide
(00_scope.md R5, R6), bytes are the lanes of R42, and an offset lies in the 256-byte window of R38. -/

namespace Sys2Proof

/-- A 64-bit pattern: what registers and the bus hold (R8). -/
abbrev Word := BitVec 64

/-- One byte lane of a register (R42). -/
abbrev Byte := BitVec 8

/-- A byte offset in the 0x100-byte register window, in [0x00, 0xFF] (R38). -/
abbrev Offset := BitVec 8

end Sys2Proof
end

