-- ==== Sys2Proof/Syntax.lean ====
section
/-! DEFINITION. The instruction set MXE-CMD v1: one constructor per row of spec/opcode_table.json. A command row is the
64-bit word of a CMD write (30_encoding.md R56, R57); a control row is the 64-bit word of a STATUS or CTRL write
(40_command_issue.md R75 to R77). A row whose word has bits the block ignores carries the whole written word, so that
no bit of an encoding is lost. -/

namespace Sys2Proof

/-- The commands and control operations of spec/opcode_table.json. -/
inductive Instr where
  /-- GCD (R86): CMD word 0x01. -/
  | gcd
  /-- XGCD (R88): CMD word 0x02. -/
  | xgcd
  /-- MODPOW (R92): CMD word 0x03. -/
  | modpow
  /-- MODINV (R94): CMD word 0x04. -/
  | modinv
  /-- PRIME_TD (R98): CMD word 0x05. -/
  | primeTd
  /-- PRIME_FERMAT (R100): CMD word `(rounds << 8) OR 0x06`; `rounds` is the ROUNDS field (R59). -/
  | primeFermat (rounds : BitVec 8)
  /-- FERMAT_WITNESS (R102): CMD word 0x07. -/
  | fermatWitness
  /-- Any CMD word that is not legal (R58, R63). -/
  | illegal (w : Word)
  /-- ACK (R75): a STATUS write of `w` with bit 1 set. -/
  | ack (w : Word)
  /-- CLROVR (R75): a STATUS write of `w` with bit 3 set and bit 1 clear (log 8). -/
  | clrovr (w : Word)
  /-- EI (R76): a CTRL write of `w` with bit 0 set and bit 1 clear. -/
  | ei (w : Word)
  /-- DI (R76): a CTRL write of `w` with bits 1 and 0 clear. -/
  | di (w : Word)
  /-- SRST (R77): a CTRL write of `w` with bit 1 set. -/
  | srst (w : Word)
  deriving DecidableEq, Repr

end Sys2Proof
end

