-- ==== Sys2Proof/WellFormed.lean ====
section
/-! DEFINITION. Which terms of `Instr` stand for words of the opcode table: the fixed bits of each row hold, and
`illegal` carries a word that no command row matches. -/

namespace Sys2Proof

/-- The three conditions of R58 on a command word. -/
def legalCommandWord (w : Word) : Bool :=
  decide (1 ≤ (w.extractLsb' 0 8).toNat) && decide ((w.extractLsb' 0 8).toNat ≤ 7) &&
    decide (w.extractLsb' 16 48 = 0#48) &&
    (decide (w.extractLsb' 8 8 = 0#8) || decide (w.extractLsb' 0 8 = 6#8))

/-- The fixed bits of an instruction's row hold (spec/opcode_table.json: match and mask). -/
def Instr.wellFormed : Instr → Bool
  | .gcd => true
  | .xgcd => true
  | .modpow => true
  | .modinv => true
  | .primeTd => true
  | .primeFermat _ => true
  | .fermatWitness => true
  | .illegal w => !legalCommandWord w
  | .ack w => w.getLsbD 1
  | .clrovr w => w.getLsbD 3 && !w.getLsbD 1
  | .ei w => w.getLsbD 0 && !w.getLsbD 1
  | .di w => !w.getLsbD 0 && !w.getLsbD 1
  | .srst w => w.getLsbD 1

end Sys2Proof
end

