-- ==== Sys2Proof/Decode.lean ====
section
/-! DEFINITION. The decoder, total on every word and every list of bytes, and after it the encoder, both written from
30_encoding.md (R56 to R63), 40_command_issue.md (R75 to R77) and spec/opcode_table.json. The fields of a word are
pulled out here, once. -/

namespace Sys2Proof

/-- OPCODE, bits [7:0] of a command word (R56). -/
def opcodeOf (w : Word) : BitVec 8 := w.extractLsb' 0 8

/-- ROUNDS, bits [15:8] of a command word (R56). -/
def roundsOf (w : Word) : BitVec 8 := w.extractLsb' 8 8

/-- RSVD, bits [63:16] of a command word (R56). -/
def rsvdOf (w : Word) : BitVec 48 := w.extractLsb' 16 48

/-- The window offsets at which the opcode table's words are written (R14). -/
def cmdOffset : Offset := 0x08#8
/-- Offset of STATUS (R14). -/
def statusOffset : Offset := 0x10#8
/-- Offset of CTRL (R14). -/
def ctrlOffset : Offset := 0x18#8

/-- Decode a command word (R57, R58): every word is a legal command or `illegal` (R62). -/
def decodeCommand (w : Word) : Instr :=
  if rsvdOf w ≠ 0#48 then .illegal w
  else if roundsOf w ≠ 0#8 ∧ opcodeOf w ≠ 0x06#8 then .illegal w
  else
    match (opcodeOf w).toNat with
    | 0x01 => .gcd
    | 0x02 => .xgcd
    | 0x03 => .modpow
    | 0x04 => .modinv
    | 0x05 => .primeTd
    | 0x06 => .primeFermat (roundsOf w)
    | 0x07 => .fermatWitness
    | _ => .illegal w

/-- Why a write or a list of bytes is no instruction of the table. -/
inductive DecodeError where
  /-- The offset is not that of CMD, STATUS or CTRL: no row of the table is written there. -/
  | noRowAtOffset (off : Offset)
  /-- A STATUS write with neither bit 1 nor bit 3 set: it matches no row and changes nothing (R75). -/
  | statusWriteClearsNothing (w : Word)
  /-- Fewer than the eight bytes of a register (R42). -/
  | tooFewBytes (n : Nat)
  deriving DecidableEq, Repr

/-- Decode the word of a STATUS write (R75). A word with both bits set is ACK; both rows have one meaning. Log 8. -/
def decodeStatusWrite (w : Word) : Except DecodeError Instr :=
  if w.getLsbD 1 then .ok (.ack w)
  else if w.getLsbD 3 then .ok (.clrovr w)
  else .error (.statusWriteClearsNothing w)

/-- Decode the word of a CTRL write (R76, R77): bit 1 decides first, then bit 0. -/
def decodeCtrlWrite (w : Word) : Instr :=
  if w.getLsbD 1 then .srst w
  else if w.getLsbD 0 then .ei w
  else .di w

/-- The instruction a 64-bit write of `w` at offset `off` stands for, or by name why it is none. -/
def decodeWrite (off : Offset) (w : Word) : Except DecodeError Instr :=
  if off = cmdOffset then .ok (decodeCommand w)
  else if off = statusOffset then decodeStatusWrite w
  else if off = ctrlOffset then .ok (decodeCtrlWrite w)
  else .error (.noRowAtOffset off)

/-- A word from its eight byte lanes, lane i holding bits [8i+7:8i] (R42). -/
def wordOfBytes (b0 b1 b2 b3 b4 b5 b6 b7 : Byte) : Word :=
  b7 ++ b6 ++ b5 ++ b4 ++ b3 ++ b2 ++ b1 ++ b0

/-- Byte lane `i` of a word: bits [8i+7:8i] (R42). -/
def byteLane (w : Word) (i : Nat) : Byte := w.extractLsb' (8 * i) 8

/-- The eight byte lanes of a word, lane 0 first (R42). -/
def bytesOfWord (w : Word) : List Byte :=
  [byteLane w 0, byteLane w 1, byteLane w 2, byteLane w 3, byteLane w 4, byteLane w 5, byteLane w 6, byteLane w 7]

/-- Decode the bytes written at offset `off`, lane 0 first; the bytes after the eighth are left over. -/
def decodeBytes (off : Offset) : List Byte → Except DecodeError (Instr × List Byte)
  | b0 :: b1 :: b2 :: b3 :: b4 :: b5 :: b6 :: b7 :: rest =>
    match decodeWrite off (wordOfBytes b0 b1 b2 b3 b4 b5 b6 b7) with
    | .ok i => .ok (i, rest)
    | .error e => .error e
  | bs => .error (.tooFewBytes bs.length)

/-- The word an instruction is written as (R56, R57, R75 to R77). -/
def encodeWord : Instr → Word
  | .gcd => 0x01#64
  | .xgcd => 0x02#64
  | .modpow => 0x03#64
  | .modinv => 0x04#64
  | .primeTd => 0x05#64
  | .primeFermat rounds => 0#48 ++ rounds ++ 0x06#8
  | .fermatWitness => 0x07#64
  | .illegal w => w
  | .ack w => w
  | .clrovr w => w
  | .ei w => w
  | .di w => w
  | .srst w => w

/-- The offset an instruction's word is written at (spec/opcode_table.json: offset). -/
def encodeOffset : Instr → Offset
  | .gcd => cmdOffset
  | .xgcd => cmdOffset
  | .modpow => cmdOffset
  | .modinv => cmdOffset
  | .primeTd => cmdOffset
  | .primeFermat _ => cmdOffset
  | .fermatWitness => cmdOffset
  | .illegal _ => cmdOffset
  | .ack _ => statusOffset
  | .clrovr _ => statusOffset
  | .ei _ => ctrlOffset
  | .di _ => ctrlOffset
  | .srst _ => ctrlOffset

/-- An instruction as the host writes it: the offset, and the eight bytes of the word, lane 0 first. -/
def encode (i : Instr) : Offset × List Byte := (encodeOffset i, bytesOfWord (encodeWord i))

/-- The offset at which a word of spec/opcode_table.json is written, guessed from its bits where the offset is not
given. A word of more than 32 bits is a CMD word. A shorter one is a control row, told apart by the bits the rows fix:
bits 1 and 0 both set are an SRST; bit 1 alone is an ACK (the table's canonical word 0x2); bit 0 alone is EI; bit 3
alone is CLROVR; none of them is DI. SRST's canonical word 0x2 has the same bits as ACK's, so no reading of the bits
alone finds both. Log 14. -/
def tableOffset (nbits : Nat) (w : Word) : Offset :=
  if 32 < nbits then cmdOffset
  else if w.getLsbD 0 then ctrlOffset
  else if w.getLsbD 1 || w.getLsbD 3 then statusOffset
  else ctrlOffset

/-- The instruction the decoder reads from a word of spec/opcode_table.json, laid out as its eight byte lanes (R42) at
the offset of `tableOffset`. -/
def decodeTableWord (nbits w : Nat) : Option Instr :=
  let word : Word := BitVec.ofNat 64 w
  match decodeBytes (tableOffset nbits word) (bytesOfWord word) with
  | .ok (i, _) => some i
  | .error _ => none

end Sys2Proof
end

