-- ==== Sys2Proof/Config.lean ====
section
/-! DEFINITION. The implementation parameters of 00_scope.md R6: the fixed ones as values, the OPEN ones as constants
without a body, so that no proof can know them. -/

namespace Sys2Proof.Config

/-- `ID_VALUE`: the constant value of the ID register (R6, R15). -/
def idValue : Word := 0x000000004D580100#64

/-- `DEFAULT_ROUNDS`: the Fermat round count that ROUNDS = 0 selects (R6, R59). -/
def defaultRounds : Nat := 50

/-- `WINDOW_SIZE`: the bytes the block decodes (R6, R38). -/
def windowSize : Nat := 0x100

/-- `BUS_DATA_WIDTH`, the only access width the block admits, in bits (R6, R39). -/
def busDataWidth : Nat := 64

/-- The OPEN choice behind `BASE`: which 0x100-byte page of the physical address space the platform gives the window
(R6, R38, D3). No body: nothing is known of it. Log 10. -/
opaque basePage : Nat

/-- `BASE`: the physical address of the window, a multiple of 0x100 (R6, R38). -/
def base : Nat := basePage * windowSize

/-- The OPEN `WitnessDraw` (R6, R32, R101): the n-th value of the witness source. `admissibleDraw` brings it into the
range of R101. No body: nothing is known of it. Log 4. -/
opaque freeWitness : Nat → Int

/-- The OPEN `LATENCY` (R6, R134): how many host operations come between an accept and its completion, when nothing
ends the wait earlier. A natural number, so always finite. No body: nothing is known of it. Log 3. -/
opaque freeLatency : Nat → Nat

/-- The unspecified value a latch takes at a block reset (R31, R123, I21). No body: nothing is known of it. Log 2. -/
opaque freeLatch : Nat → Word

end Sys2Proof.Config
end

