-- ==== Sys2Proof/Machine/State.lean ====
section
/-! DEFINITION. The state of the block and of the agents around it, as plain data; the reasons a step stops; and the
state after reset. The block's own state is that of 10_state.md R13; the fields after it stand for the hosts, for the
order T (20_memory.md R48) and for the values the spec leaves free (INVENTORY.md, "State"). -/

namespace Sys2Proof.Machine

/-- The engine state (R30). -/
inductive Fsm where
  | idle
  | busy
  deriving DecidableEq, Repr

/-- The registers of the window (R14). -/
inductive Reg where
  | id
  | cmd
  | status
  | ctrl
  | opa
  | opb
  | opc
  | res0
  | res1
  | res2
  deriving DecidableEq, Repr

/-- What a bus transaction does at its offset (R39). A write carries its 64-bit word. -/
inductive Access where
  | read
  | write (w : Word)
  deriving DecidableEq, Repr

/-- One bus transaction of a host (R39). `master` says which bus master sent it and has no effect on the block (R115,
R118, log 13); `width` is the access width in bits, so that the widths the block refuses exist too. -/
structure Transaction where
  master : Nat
  width : Nat
  off : Offset
  access : Access
  deriving DecidableEq, Repr

/-- One host operation, or an event of the reset input, in the order T (R48). -/
inductive HostOp where
  /-- One bus transaction: `WR` and `RD` of R64. -/
  | access (t : Transaction)
  /-- `WAIT` of R64: STATUS reads until one returns BUSY = 0. Log 15. -/
  | wait (master : Nat)
  /-- The hardware reset input is asserted and released (R122). Log 11. -/
  | resetInput
  deriving DecidableEq, Repr

/-- What the bus answers a transaction. -/
inductive Response where
  /-- The word an admitted read returns (R80). -/
  | data (w : Word)
  /-- An admitted write was taken. -/
  | written
  /-- The bus error response of a refused transaction; it carries no data (R40). -/
  | busError
  deriving DecidableEq, Repr

/-- The machine's faults. There is one kind (R121). -/
inductive Fault where
  /-- A transaction the block did not admit, by the host `master`: its width is not 64 bits or its offset is no multiple
  of 8 (R39, R40, R121). Raised by the step of that transaction, which records it in `State.faults` and goes on (R123:
  reset does not clear it, so a run continues past it); no step ends in `Outcome.fault`. Safe: it is the spec's own
  effect, and no block state changes. Log 6. -/
  | busError (master width : Nat) (off : Offset) (access : Access)
  deriving DecidableEq, Repr

/-- The reasons a step gives no next state. -/
inductive Refusal where
  /-- The instruction has no meaning in this model yet. Raised by no arm of `exec`: every row has its meaning. Safe. -/
  | notModelled (mnemonic : String)
  /-- No step (R67, R70): the engine has no step while `fsm = IDLE`, and the hosts have no operation left. Raised by
  `complete` in a state that is IDLE and by `hostStep` with an empty queue. Safe: the spec gives no step there. Log 7. -/
  | noEnabledStep
  deriving DecidableEq, Repr

/-- The state of the machine. -/
structure State where
  /-- CMD: the last accepted command word (R16). -/
  cmd : Word
  /-- STATUS.DONE (R18). -/
  done : Bool
  /-- STATUS.ERR (R19). -/
  err : Bool
  /-- STATUS.OVR (R20). -/
  ovr : Bool
  /-- STATUS.ERRCODE (R21). -/
  errcode : BitVec 4
  /-- STATUS.ERRDETAIL (R22). -/
  errdetail : BitVec 8
  /-- CTRL.IE (R24). -/
  ie : Bool
  /-- OPA (R27). -/
  opa : Word
  /-- OPB (R27). -/
  opb : Word
  /-- OPC (R27). -/
  opc : Word
  /-- RES0 (R28). -/
  res0 : Word
  /-- RES1 (R28). -/
  res1 : Word
  /-- RES2 (R28). -/
  res2 : Word
  /-- The engine state (R30); STATUS.BUSY is `fsm = busy` (R17). -/
  fsm : Fsm
  /-- lat[CMD] (R31). -/
  latCmd : Word
  /-- lat[OPA] (R31). -/
  latA : Word
  /-- lat[OPB] (R31). -/
  latB : Word
  /-- lat[OPC] (R31). -/
  latC : Word
  /-- The fault set of host bus errors, newest first; never cleared (R121, R123). -/
  faults : List Fault
  /-- The model's own: the host operations still to come, oldest first (R48, R49). Log 12. -/
  host : List HostOp
  /-- The model's own: the bus's answers with the master each went to, newest first (R40, R80). Log 13. -/
  responses : List (Nat × Response)
  /-- The model's own: how many host operations still come before the completion of the command in flight (R134). Log 3. -/
  countdown : Nat
  /-- The model's own: latencies fixed in advance for the next accepts; `Config.freeLatency` gives those after. Log 3. -/
  latencies : List Nat
  /-- The model's own: witnesses fixed in advance; `Config.freeWitness` gives those after. Log 4. -/
  draws : List Int
  /-- The model's own: how many free values have been used. Logs 2, 3 and 4. -/
  freeCount : Nat
  deriving DecidableEq, Repr

/-- The state right after reset (R123): every register 0 but the constant ID, `fsm` IDLE, no fault. The latches are
unspecified there (I21): 0 is the model's choice (log 2). The model's own fields are empty. -/
def State.reset : State where
  cmd := 0#64
  done := false
  err := false
  ovr := false
  errcode := 0#4
  errdetail := 0#8
  ie := false
  opa := 0#64
  opb := 0#64
  opc := 0#64
  res0 := 0#64
  res1 := 0#64
  res2 := 0#64
  fsm := .idle
  latCmd := 0#64
  latA := 0#64
  latB := 0#64
  latC := 0#64
  faults := []
  host := []
  responses := []
  countdown := 0
  latencies := []
  draws := []
  freeCount := 0

end Sys2Proof.Machine
end

