-- ==== Sys2Proof/Machine/Operands.lean ====
section
/-! DEFINITION. How operands are read and results are formed: words and integers (00_scope.md R8), the arithmetic
primitives (R9), the latched operands (30_encoding.md R60, R61), the round count (R59), the register at an offset
(10_state.md R14), and the draws (43_primality.md R101). -/

namespace Sys2Proof.Machine

/-- `int64(w)`: the two's-complement value of a word (R5, R8). -/
def int64 (w : Word) : Int := w.toInt

/-- `word64(i)`: the word whose two's-complement value is `i`, for `i` in the int64 range (R8). -/
def word64 (i : Int) : Word := BitVec.ofInt 64 i

/-- The least signed 64-bit integer, -2^63 (R5). -/
def int64Min : Int := -9223372036854775808

/-- The greatest signed 64-bit integer, 2^63-1 (R5). -/
def int64Max : Int := 9223372036854775807

/-- `i` is a signed 64-bit integer (R5). -/
def inInt64 (i : Int) : Bool := decide (int64Min ≤ i) && decide (i ≤ int64Max)

/-- `floor_div(a, m)` for `m > 0`: the greatest integer `q` with `q*m ≤ a` (R9). -/
def floorDiv (a m : Int) : Int := a / m

/-- `floor_mod(a, m)` for `m > 0`: `a - m*floor_div(a, m)`, in [0, m) (R9). -/
def floorMod (a m : Int) : Int := a % m

/-- One binary digit at a time, the highest first: `r` is the root found so far and 2^k the weight of the last digit
tried. -/
def isqrtDigits : Nat → Nat → Nat → Nat
  | 0, r, _ => r
  | k + 1, r, n => if (r + 2 ^ k) * (r + 2 ^ k) ≤ n then isqrtDigits k (r + 2 ^ k) n else isqrtDigits k r n

/-- `isqrt(n)`: the greatest `r` with `r*r ≤ n` (R9), for every `n` below 2^64 (32 binary digits of root). -/
def isqrt (n : Nat) : Nat := isqrtDigits 32 0 n

/-- The operand of lat[OPA] (R60, R61). -/
def State.a (s : State) : Int := int64 s.latA

/-- The operand of lat[OPB] (R60, R61). -/
def State.b (s : State) : Int := int64 s.latB

/-- The operand of lat[OPC] (R60, R61). -/
def State.c (s : State) : Int := int64 s.latC

/-- The round count R that the ROUNDS field selects: 0 selects the default 50 (R59). -/
def roundCount (rounds : BitVec 8) : Nat :=
  if rounds = 0#8 then Config.defaultRounds else rounds.toNat

/-- An integer brought into [1, n-1], itself if it lies there: a witness that R101 admits, for `n ≥ 2`. Log 4. -/
def admissibleDraw (n v : Int) : Int := 1 + (v - 1) % (n - 1)

/-- `draws(i)`: the witness of round `i`, counted from 1 (R100, R101): from the tape while it lasts, then free. Log 4. -/
def State.draw (s : State) (n : Int) (i : Nat) : Int :=
  match s.draws[i - 1]? with
  | some v => admissibleDraw n v
  | none => admissibleDraw n (Config.freeWitness (s.freeCount + (i - 1)))

/-- The witness source after `k` draws: every draw is fresh (R32). Log 4. -/
def State.afterDraws (s : State) (k : Nat) : State :=
  { s with draws := s.draws.drop k, freeCount := s.freeCount + k }

/-- The offset of a register (R14). -/
def Reg.offset : Reg → Offset
  | .id => 0x00#8
  | .cmd => 0x08#8
  | .status => 0x10#8
  | .ctrl => 0x18#8
  | .opa => 0x20#8
  | .opb => 0x28#8
  | .opc => 0x30#8
  | .res0 => 0x40#8
  | .res1 => 0x48#8
  | .res2 => 0x50#8

/-- The register at an offset that is a multiple of 8; none at a reserved offset (R14, R29). -/
def regAt (off : Offset) : Option Reg :=
  match off.toNat with
  | 0x00 => some .id
  | 0x08 => some .cmd
  | 0x10 => some .status
  | 0x18 => some .ctrl
  | 0x20 => some .opa
  | 0x28 => some .opb
  | 0x30 => some .opc
  | 0x40 => some .res0
  | 0x48 => some .res1
  | 0x50 => some .res2
  | _ => none

/-- The window offset of a physical address, where the address lies in the window; the platform routes every other
address elsewhere (R38). -/
def offsetOfAddress (addr : Nat) : Option Offset :=
  if Config.base ≤ addr ∧ addr < Config.base + Config.windowSize then some (BitVec.ofNat 8 (addr - Config.base))
  else none

/-- The block admits a transaction exactly when it is 64 bits wide at an offset that is a multiple of 8 (R39). -/
def Transaction.admitted (t : Transaction) : Bool :=
  decide (t.width = Config.busDataWidth) && decide (t.off.toNat % 8 = 0)

end Sys2Proof.Machine
end

