-- ==== Sys2Proof/Machine/Flags.lean ====
section
/-! DEFINITION. The error kinds and sub-causes with their codes (60_exceptions.md R105, R106), the STATUS and CTRL words
as the host reads them (10_state.md R17 to R26), the interrupt output (R33), and which sub-cause an illegal command
word has (30_encoding.md R63). -/

namespace Sys2Proof.Machine

/-- The error kinds (R105). -/
inductive ErrKind where
  | invalidArgument
  /-- Reserved: no command of this block raises it (R105, D40). -/
  | rangeExhausted
  | overflow
  | illegalCommand
  deriving DecidableEq, Repr

/-- The sub-causes of errors (R106). -/
inductive Cause where
  | bothZero
  | order
  | negExponent
  | modulusNonpositive
  | noInverse
  | nTooSmall
  | witnessRange
  | operandMin
  /-- Unreachable (R90); the check stays, as in the pseudocode of R88. -/
  | resultRange
  | unknownOpcode
  | rsvdNonzero
  | roundsNotAllowed
  deriving DecidableEq, Repr

/-- The kind a sub-cause belongs to (R106). -/
def Cause.kind : Cause → ErrKind
  | .bothZero => .invalidArgument
  | .order => .invalidArgument
  | .negExponent => .invalidArgument
  | .modulusNonpositive => .invalidArgument
  | .noInverse => .invalidArgument
  | .nTooSmall => .invalidArgument
  | .witnessRange => .invalidArgument
  | .operandMin => .overflow
  | .resultRange => .overflow
  | .unknownOpcode => .illegalCommand
  | .rsvdNonzero => .illegalCommand
  | .roundsNotAllowed => .illegalCommand

/-- `code(kind)`: ERRCODE of a kind (R105). -/
def ErrKind.code : ErrKind → BitVec 4
  | .invalidArgument => 1#4
  | .rangeExhausted => 2#4
  | .overflow => 3#4
  | .illegalCommand => 4#4

/-- ERRDETAIL of a sub-cause (R106). -/
def Cause.detail : Cause → BitVec 8
  | .bothZero => 0x01#8
  | .order => 0x02#8
  | .negExponent => 0x03#8
  | .modulusNonpositive => 0x04#8
  | .noInverse => 0x05#8
  | .nTooSmall => 0x06#8
  | .witnessRange => 0x07#8
  | .operandMin => 0x01#8
  | .resultRange => 0x02#8
  | .unknownOpcode => 0x01#8
  | .rsvdNonzero => 0x02#8
  | .roundsNotAllowed => 0x03#8

/-- What `Exec` returns (R68): three result integers, or an error by its sub-cause. -/
inductive CmdResult where
  | ok (r0 r1 r2 : Int)
  | raise (c : Cause)
  deriving DecidableEq, Repr

/-- The first of the three checks of R63 that applies, in its order. -/
def illegalCause (w : Word) : Cause :=
  if (opcodeOf w).toNat = 0 ∨ 8 ≤ (opcodeOf w).toNat then .unknownOpcode
  else if rsvdOf w ≠ 0#48 then .rsvdNonzero
  else .roundsNotAllowed

/-- STATUS.BUSY: 1 exactly when `fsm = BUSY` (R17). -/
def State.busyBit (s : State) : Bool := decide (s.fsm = .busy)

/-- The word a STATUS read returns (R17 to R23): each field at its bits, every reserved bit 0. -/
def State.statusWord (s : State) : Word :=
  0#40 ++ s.errdetail ++ 0#4 ++ s.errcode ++ 0#4 ++ BitVec.ofBool s.ovr ++ BitVec.ofBool s.err ++
    BitVec.ofBool s.done ++ BitVec.ofBool s.busyBit

/-- The word a CTRL read returns: `{62'b0, 0, IE}` (R24 to R26, R80). -/
def State.ctrlWord (s : State) : Word := 0#62 ++ 0#1 ++ BitVec.ofBool s.ie

/-- The interrupt output: `irq = CTRL.IE AND STATUS.DONE` (R33, R111). -/
def State.irq (s : State) : Bool := s.ie && s.done

end Sys2Proof.Machine
end

