-- ==== Sys2Proof/Machine/Ops.lean ====
section
/-! DEFINITION. The named operations every step is made of: register reads and writes (10_state.md R14 to R29,
20_memory.md R45), accepting and dropping a command (40_command_issue.md R71, R72), the completion (R73) with the one
operation that takes an error (R73, R74, R112), the bus error (20_memory.md R40, 60_exceptions.md R121) and the block
reset (70_reset_and_hazards.md R122, R123). -/

namespace Sys2Proof.Machine

/-! ### Reads -/

/-- The word a register reads as (R14 to R28, R80). -/
def State.readReg (s : State) : Reg → Word
  | .id => Config.idValue
  | .cmd => s.cmd
  | .status => s.statusWord
  | .ctrl => s.ctrlWord
  | .opa => s.opa
  | .opb => s.opb
  | .opc => s.opc
  | .res0 => s.res0
  | .res1 => s.res1
  | .res2 => s.res2

/-- `BusRead(off)` of an admitted offset: the register there, 0 at a reserved offset (R29, R41, R80). -/
def State.readOffset (s : State) (off : Offset) : Word :=
  match regAt off with
  | some r => s.readReg r
  | none => 0#64

/-- The byte of the window at an offset: byte i of the register whose offset is the multiple of 8 below (R42). -/
def State.windowByte (s : State) (off : Offset) : Byte :=
  byteLane (s.readOffset (BitVec.ofNat 8 (off.toNat / 8 * 8))) (off.toNat % 8)

/-! ### Reset -/

/-- The block reset, the one effect of both reset sources (R122, R123): every register takes its reset value, the
command in flight is abandoned, and the latches take unspecified values (I21, log 2). The fault set is not block state
and stays (R123), and so do the model's own fields for the agents outside. -/
def State.blockReset (s : State) : State :=
  { s with
    cmd := 0#64, done := false, err := false, ovr := false, errcode := 0#4, errdetail := 0#8, ie := false,
    opa := 0#64, opb := 0#64, opc := 0#64, res0 := 0#64, res1 := 0#64, res2 := 0#64, fsm := .idle,
    latCmd := Config.freeLatch s.freeCount, latA := Config.freeLatch (s.freeCount + 1),
    latB := Config.freeLatch (s.freeCount + 2), latC := Config.freeLatch (s.freeCount + 3),
    countdown := 0, freeCount := s.freeCount + 4 }

/-! ### Command issue -/

/-- The latency of the next accepted command: from the tape while it lasts, then free (R6, R134). Log 3. -/
def State.nextLatency (s : State) : Nat :=
  match s.latencies with
  | l :: _ => l
  | [] => Config.freeLatency s.freeCount

/-- Accept a command word (R71): load the latches and CMD, go BUSY, clear DONE, ERR, ERRCODE and ERRDETAIL. The word is
not decoded. The command's latency is fixed here, as a value the block does not see. -/
def State.accept (w : Word) (s : State) : State :=
  { s with
    latCmd := w, latA := s.opa, latB := s.opb, latC := s.opc, cmd := w, fsm := .busy,
    done := false, err := false, errcode := 0#4, errdetail := 0#8,
    countdown := s.nextLatency, latencies := s.latencies.tail, freeCount := s.freeCount + 1 }

/-- Drop a command word written while BUSY (R72). -/
def State.drop (s : State) : State := { s with ovr := true }

/-- A CMD write: accept while IDLE, drop while BUSY (R71, R72). -/
def State.issue (w : Word) (s : State) : State :=
  match s.fsm with
  | .idle => s.accept w
  | .busy => s.drop

/-! ### Writes -/

/-- A STATUS write (R75): DONE and OVR are cleared where the written bit is 1; no other bit changes (R23). -/
def State.writeStatus (w : Word) (s : State) : State :=
  { s with done := s.done && !w.getLsbD 1, ovr := s.ovr && !w.getLsbD 3 }

/-- A CTRL write: with bit 1 set the block reset, whatever bit 0 is (R25, R77); else IE takes bit 0 (R76). -/
def State.writeCtrl (w : Word) (s : State) : State :=
  if w.getLsbD 1 then s.blockReset else { s with ie := w.getLsbD 0 }

/-- `BusWrite(off, w)` to a register (R45, R71 to R79). -/
def State.writeReg (r : Reg) (w : Word) (s : State) : State :=
  match r with
  | .id => s
  | .cmd => s.issue w
  | .status => s.writeStatus w
  | .ctrl => s.writeCtrl w
  | .opa => { s with opa := w }
  | .opb => { s with opb := w }
  | .opc => { s with opc := w }
  | .res0 => s
  | .res1 => s
  | .res2 => s

/-- `BusWrite(off, w)` of an admitted offset: a write to a reserved offset is ignored (R29, R41, R79). -/
def State.writeOffset (off : Offset) (w : Word) (s : State) : State :=
  match regAt off with
  | some r => s.writeReg r w
  | none => s

/-! ### Completion -/

/-- TAKING AN ERROR, the block's only exception (R73, R74, R112): ERR and its codes are recorded and all three results
are 0. No processor state is saved, no mode changes and no vector is taken. -/
def State.takeError (c : Cause) (s : State) : State :=
  { s with res0 := 0#64, res1 := 0#64, res2 := 0#64, err := true, errcode := c.kind.code, errdetail := c.detail }

/-- A success (R73): the three results are written, those a command does not define as 0 (R28), and the error fields
are cleared. -/
def State.takeResults (r0 r1 r2 : Int) (s : State) : State :=
  { s with
    res0 := word64 r0, res1 := word64 r1, res2 := word64 r2, err := false, errcode := 0#4, errdetail := 0#8 }

/-- The last two lines of the completion, on success and on error alike (R73): DONE is set and the engine is IDLE. -/
def State.markDone (s : State) : State := { s with done := true, fsm := .idle }

/-- What the completion step leaves (R73). -/
def State.finish (r : CmdResult) (s : State) : State :=
  match r with
  | .ok r0 r1 r2 => (s.takeResults r0 r1 r2).markDone
  | .raise c => (s.takeError c).markDone

/-- The completion step of a command whose `Exec` answers `r`: enabled exactly while BUSY; IDLE has no step (R67, R70,
R73). -/
def complete (r : CmdResult) (s : State) : Host.Outcome State Fault Refusal :=
  match s.fsm with
  | .busy => .next (s.finish r)
  | .idle => .refused .noEnabledStep

/-! ### The bus -/

/-- The bus answers the host `m`. -/
def State.respond (m : Nat) (r : Response) (s : State) : State :=
  { s with responses := (m, r) :: s.responses }

/-- The bus error response to a refused transaction (R40, R121): no block state changes, no data is returned, and the
fault is recorded for good. -/
def State.refuse (t : Transaction) (s : State) : State :=
  { s.respond t.master .busError with faults := .busError t.master t.width t.off t.access :: s.faults }

/-- One host transaction, as one atomic event (R39 to R45, R80). -/
def State.transact (t : Transaction) (s : State) : State :=
  if t.admitted then
    match t.access with
    | .read => s.respond t.master (.data (s.readOffset t.off))
    | .write w => (s.respond t.master .written).writeOffset t.off w
  else s.refuse t

/-! ### The queue of host operations -/

/-- The host operation at the head of the queue is taken; one fewer is left before the completion in flight. -/
def State.popHost (s : State) : State := { s with host := s.host.tail, countdown := s.countdown - 1 }

/-- One poll of `WAIT` (R64): a STATUS read; the operation stays at the head of the queue while it returns BUSY = 1.
Log 15. -/
def State.pollWait (m : Nat) (s : State) : State :=
  (match s.fsm with
    | .busy => { s with countdown := s.countdown - 1 }
    | .idle => s.popHost).respond m (.data s.statusWord)

/-- The step of the host operation at the head of the queue; none is left in an empty queue (R67, log 7). -/
def hostStep (s : State) : Host.Outcome State Fault Refusal :=
  match s.host with
  | [] => .refused .noEnabledStep
  | .access t :: _ => .next (s.popHost.transact t)
  | .wait m :: _ => .next (s.pollWait m)
  | .resetInput :: _ => .next s.popHost.blockReset

/-! ### Which step comes next -/

/-- The engine moves next: a command is in flight, and its latency is over or no host has anything left to send (R66,
R70, R134). Log 3. -/
def State.engineTurn (s : State) : Bool :=
  decide (s.fsm = .busy) && (decide (s.countdown = 0) || s.host.isEmpty)

/-- The instruction of the table that the next step runs, and the state it runs at. The engine's is decoded from
lat[CMD] (R58); a host's is an admitted STATUS or CTRL write that decodes to a control row, taken from the queue and
answered. None: the next step is a host operation that is no instruction of the table (a CMD write among them: it is
only accepted or dropped, R71, R72). Log 5. -/
def State.fetch (s : State) : Option (Instr × State) :=
  if s.engineTurn then some (decodeCommand s.latCmd, s)
  else
    match s.host with
    | .access ⟨m, width, off, .write w⟩ :: _ =>
      if (Transaction.mk m width off (.write w)).admitted && decide (off ≠ cmdOffset) then
        match decodeWrite off w with
        | .ok i => some (i, s.popHost.respond m .written)
        | .error _ => none
      else none
    | _ => none

/-- `s` with the instruction `i` placed so that the next step fetches and runs it: a command word as its accept leaves
it with its latency over (R71), a control word as the next host write. Log 12. -/
def State.place (i : Instr) (s : State) : State :=
  if encodeOffset i = cmdOffset then
    { s.accept (encodeWord i) with countdown := 0, latencies := s.latencies, freeCount := s.freeCount }
  else
    { s with
      host := .access ⟨0, Config.busDataWidth, encodeOffset i, .write (encodeWord i)⟩ :: s.host
      countdown := s.countdown + 1 }

end Sys2Proof.Machine
end

