-- ==== Sys2Proof/Machine/Control.lean ====
section
/-! DEFINITION. The completion of an illegal command word (30_encoding.md R63) and the control operations
(40_command_issue.md R75 to R77). -/

namespace Sys2Proof.Machine

/-- An illegal command word `w` completes with IllegalCommand and the first sub-cause of R63 that applies. -/
def execIllegal (w : Word) (s : State) : Host.Outcome State Fault Refusal := complete (.raise (illegalCause w)) s

/-- ACK (R75): the STATUS write of `w`, in either engine state. -/
def execAck (w : Word) (s : State) : Host.Outcome State Fault Refusal := .next (s.writeStatus w)

/-- CLROVR (R75): the STATUS write of `w`, in either engine state. -/
def execClrovr (w : Word) (s : State) : Host.Outcome State Fault Refusal := .next (s.writeStatus w)

/-- EI (R76): the CTRL write of `w`, in either engine state. -/
def execEi (w : Word) (s : State) : Host.Outcome State Fault Refusal := .next (s.writeCtrl w)

/-- DI (R76): the CTRL write of `w`, in either engine state. -/
def execDi (w : Word) (s : State) : Host.Outcome State Fault Refusal := .next (s.writeCtrl w)

/-- SRST (R77): the CTRL write of `w`, in either engine state. -/
def execSrst (w : Word) (s : State) : Host.Outcome State Fault Refusal := .next (s.writeCtrl w)

end Sys2Proof.Machine
end

