-- ==== Sys2Proof/Machine/Gcd.lean ====
section
/-! DEFINITION. The GCD family (41_gcd.md): GCD (R86) and XGCD (R88). -/

namespace Sys2Proof.Machine

/-- The loop of R86, `while y != 0: (x, y) <- (y, floor_mod(x, y))`, for at most `fuel` steps; `y + 1` are always
enough, since y falls at every step. -/
def euclid : Nat → Nat → Nat → Nat
  | 0, x, _ => x
  | fuel + 1, x, y => if y = 0 then x else euclid fuel y (x % y)

/-- The checks GCD and XGCD share, in the order of R109: OPERAND_MIN, BOTH_ZERO, ORDER. -/
def euclidError (a b : Int) : Option Cause :=
  if a = int64Min ∨ b = int64Min then some .operandMin
  else if a.natAbs = 0 ∧ b.natAbs = 0 then some .bothZero
  else if a.natAbs < b.natAbs then some .order
  else none

/-- `GCD(a, b)` (R86). -/
def gcdResult (a b : Int) : CmdResult :=
  match euclidError a b with
  | some c => .raise c
  | none => .ok (euclid (b.natAbs + 1) a.natAbs b.natAbs) 0 0

/-- The loop of R88, with the coefficient pairs `s` and `t` updated in lock-step; it returns the final x and s. -/
def pulverizer : Nat → Nat → Nat → Int × Int → Int × Int → Nat × Int × Int
  | 0, x, _, s, _ => (x, s)
  | fuel + 1, x, y, s, t =>
    if y = 0 then (x, s)
    else
      let r := x % y
      let q : Int := ((x - r) / y : Nat)
      pulverizer fuel y r t (s.1 - t.1 * q, s.2 - t.2 * q)

/-- The sign fix-up of R88 (D19): the coefficient of a negative operand is negated. -/
def signFix (operand coeff : Int) : Int := if operand < 0 then -coeff else coeff

/-- `XGCD(a, b)` (R88), with its unreachable RESULT_RANGE check (R90). -/
def xgcdResult (a b : Int) : CmdResult :=
  match euclidError a b with
  | some c => .raise c
  | none =>
    match pulverizer (b.natAbs + 1) a.natAbs b.natAbs (1, 0) (0, 1) with
    | (g, s0, s1) =>
      if inInt64 (signFix a s0) && inInt64 (signFix b s1) then .ok (signFix a s0) (signFix b s1) g
      else .raise .resultRange

/-- GCD, opcode 0x01 (R86). -/
def execGcd (s : State) : Host.Outcome State Fault Refusal := complete (gcdResult s.a s.b) s

/-- XGCD, opcode 0x02 (R88). -/
def execXgcd (s : State) : Host.Outcome State Fault Refusal := complete (xgcdResult s.a s.b) s

end Sys2Proof.Machine
end

