-- ==== Sys2Proof/Machine/Modular.lean ====
section
/-! DEFINITION. The modular family (42_modular.md): MODPOW (R92, R93) and MODINV (R94). -/

namespace Sys2Proof.Machine

/-- The loop of R92, word for word: `repeat e times: r <- floor_mod(r * b, m)`. It says what MODPOW's value is;
`squareMultiply` computes the same value (R93). -/
def repeatMultiply : Nat → Nat → Nat → Nat → Nat
  | 0, _, r, _ => r
  | e + 1, b, r, m => repeatMultiply e b (r * b % m) m

/-- Right-to-left square-and-multiply, which R93 permits, over the low `bits` bits of the exponent: `b` is the base
raised to the weight of the next bit, `r` the product so far. -/
def squareMultiply : Nat → Nat → Nat → Nat → Nat → Nat
  | 0, _, _, r, _ => r
  | bits + 1, b, e, r, m =>
    squareMultiply bits (b * b % m) (e / 2) (if e % 2 = 1 then r * b % m else r) m

/-- `PowMod(k, e, m) = floor_mod(k^e, m)` for `m > 0` and `0 ≤ e < 2^64` (R92, R93): the base is reduced once, and the
accumulator starts at `floor_mod(1, m)` (C1). Every product is exact (D17). Log 9. -/
def powMod (k e m : Int) : Int :=
  squareMultiply 64 (floorMod k m).toNat e.toNat (floorMod 1 m).toNat m.toNat

/-- `MODPOW(base, e, m)` (R92). -/
def modpowResult (base e m : Int) : CmdResult :=
  if e < 0 then .raise .negExponent
  else if m ≤ 0 then .raise .modulusNonpositive
  else .ok (powMod base e m) 0 0

/-- `MODINV(k, m)` (R94): the coefficient of k in XGCD(m, k), brought into [0, m) (C2). -/
def modinvResult (k m : Int) : CmdResult :=
  if k = int64Min ∨ m = int64Min then .raise .operandMin
  else if m ≤ 0 then .raise .modulusNonpositive
  else if m < k.natAbs then .raise .order
  else
    match xgcdResult m k with
    | .raise c => .raise c
    | .ok _ s1 g => if g ≠ 1 then .raise .noInverse else .ok (floorMod s1 m) 0 0

/-- MODPOW, opcode 0x03 (R92). -/
def execModpow (s : State) : Host.Outcome State Fault Refusal := complete (modpowResult s.a s.b s.c) s

/-- MODINV, opcode 0x04 (R94). -/
def execModinv (s : State) : Host.Outcome State Fault Refusal := complete (modinvResult s.a s.b) s

end Sys2Proof.Machine
end

