-- ==== Sys2Proof/Machine/Primality.lean ====
section
/-! DEFINITION. The primality family (43_primality.md): PRIME_TD (R98), PRIME_FERMAT (R100, R101) and FERMAT_WITNESS
(R102). -/

namespace Sys2Proof.Machine

/-- Trial division by `d`, `d+1`, ..., `count` divisors in all, ascending: the first that divides `n` (R98). -/
def trialDivide : Nat → Nat → Nat → Option Nat
  | 0, _, _ => none
  | count + 1, d, n => if n % d = 0 then some d else trialDivide count (d + 1) n

/-- `PRIME_TD(n)` (R98): the divisors 2 to isqrt(n), of which there are `isqrt n - 1`. -/
def primeTdResult (n : Int) : CmdResult :=
  if n ≤ 1 then .raise .nTooSmall
  else
    match trialDivide (isqrt n.toNat - 1) 2 n.toNat with
    | some d => .ok 0 d 0
    | none => .ok 1 0 0

/-- The rounds `i` to `i + left - 1` of R100, with the witness of round j given by `draws j`: the failing witness with
its round, or none where all pass. -/
def fermatRounds (n : Int) (draws : Nat → Int) : Nat → Nat → Option (Int × Nat)
  | 0, _ => none
  | left + 1, i =>
    if powMod (draws i) (n - 1) n ≠ 1 then some (draws i, i) else fermatRounds n draws left (i + 1)

/-- `PRIME_FERMAT(n, R, draws)` (R100): it stops at the first failing witness (D25). -/
def primeFermatResult (n : Int) (rounds : Nat) (draws : Nat → Int) : CmdResult :=
  if n ≤ 1 then .raise .nTooSmall
  else
    match fermatRounds n draws rounds 1 with
    | some (k, i) => .ok 0 k i
    | none => .ok 1 0 rounds

/-- How many witnesses a PRIME_FERMAT completion has drawn: one for each round run (R100). -/
def drawsUsed : CmdResult → Nat
  | .ok _ _ r2 => r2.toNat
  | .raise _ => 0

/-- `FERMAT_WITNESS(n, k)` (R102). -/
def fermatWitnessResult (n k : Int) : CmdResult :=
  if n ≤ 1 then .raise .nTooSmall
  else if k < 1 ∨ n - 1 < k then .raise .witnessRange
  else .ok (if powMod k (n - 1) n = 1 then 1 else 0) (powMod k (n - 1) n) 0

/-- PRIME_TD, opcode 0x05 (R98). -/
def execPrimeTd (s : State) : Host.Outcome State Fault Refusal := complete (primeTdResult s.a) s

/-- PRIME_FERMAT, opcode 0x06 (R100). The witnesses are the step's free input (R73, R101); those it has drawn are used
up (R32). -/
def execPrimeFermat (rounds : BitVec 8) (s : State) : Host.Outcome State Fault Refusal :=
  let r := primeFermatResult s.a (roundCount rounds) (s.draw s.a)
  complete r (s.afterDraws (drawsUsed r))

/-- FERMAT_WITNESS, opcode 0x07 (R102). -/
def execFermatWitness (s : State) : Host.Outcome State Fault Refusal := complete (fermatWitnessResult s.a s.b) s

end Sys2Proof.Machine
end

