-- ==== Sys2Proof/Machine/Dispatch.lean ====
section
/-! DEFINITION. The meaning of every instruction of spec/opcode_table.json, one arm each. -/

namespace Sys2Proof.Machine

def exec (i : Instr) (s : State) : Host.Outcome State Fault Refusal :=
  match i with
  | .gcd => Sys2Proof.Machine.execGcd s
  | .xgcd => Sys2Proof.Machine.execXgcd s
  | .modpow => Sys2Proof.Machine.execModpow s
  | .modinv => Sys2Proof.Machine.execModinv s
  | .primeTd => Sys2Proof.Machine.execPrimeTd s
  | .primeFermat rounds => Sys2Proof.Machine.execPrimeFermat rounds s
  | .fermatWitness => Sys2Proof.Machine.execFermatWitness s
  | .illegal w => Sys2Proof.Machine.execIllegal w s
  | .ack w => Sys2Proof.Machine.execAck w s
  | .clrovr w => Sys2Proof.Machine.execClrovr w s
  | .ei w => Sys2Proof.Machine.execEi w s
  | .di w => Sys2Proof.Machine.execDi w s
  | .srst w => Sys2Proof.Machine.execSrst w s

end Sys2Proof.Machine
end

