-- ==== Sys2Proof/Machine/Step.lean ====
section
/-! DEFINITION. One step of the machine: one event of the order T (20_memory.md R48, 40_command_issue.md R66). -/

namespace Sys2Proof.Machine

/-- The next event of T. Where it runs an instruction of the table (the engine's completion, or a host's STATUS or CTRL
write), that instruction's meaning; else the host operation at the head of the queue. -/
def step (s : State) : Host.Outcome State Fault Refusal :=
  match s.fetch with
  | some (i, t) => exec i t
  | none => hostStep s

/-- `s` with the instruction that a word of spec/opcode_table.json stands for placed where the next step fetches it. -/
def State.withFetchWord (s : State) (nbits w : Nat) : State :=
  match decodeTableWord nbits w with
  | some i => s.place i
  | none => s

end Sys2Proof.Machine
end

