-- ==== Sys2Proof/Machine/HostProgram.lean ====
section
/-! DEFINITION. The host notation of 30_encoding.md: host operations (R64) and the pseudo-instructions that expand to
them (R65). No step reads this file: it says how a host's program becomes the queue `State.host`. -/

namespace Sys2Proof.Machine

/-- `WR reg, w` (R64), by the host `m`. -/
def wr (m : Nat) (r : Reg) (w : Word) : HostOp := .access ⟨m, Config.busDataWidth, r.offset, .write w⟩

/-- `RD reg` (R64), by the host `m`. -/
def rd (m : Nat) (r : Reg) : HostOp := .access ⟨m, Config.busDataWidth, r.offset, .read⟩

/-- The pseudo-instructions of R65, one constructor per row of its table, operands in its order. -/
inductive Pseudo where
  | gcd (a b : Int)
  | xgcd (a b : Int)
  | modpow (base e m : Int)
  | modinv (k m : Int)
  | primeTd (n : Int)
  /-- `PRIME_FERMAT n, r`, with r in 1 to 255. -/
  | primeFermat (n : Int) (r : BitVec 8)
  /-- `PRIME_FERMAT n`: ROUNDS = 0, so 50 rounds. -/
  | primeFermatDefault (n : Int)
  | fermatWitness (n k : Int)
  | ack
  | clrovr
  | ei
  | di
  | srst
  deriving DecidableEq, Repr

/-- The operands are integers of the int64 range (R64), and the round count of `PRIME_FERMAT n, r` is not 0 (R65). -/
def Pseudo.wellFormed : Pseudo → Bool
  | .gcd a b => inInt64 a && inInt64 b
  | .xgcd a b => inInt64 a && inInt64 b
  | .modpow base e m => inInt64 base && inInt64 e && inInt64 m
  | .modinv k m => inInt64 k && inInt64 m
  | .primeTd n => inInt64 n
  | .primeFermat n r => inInt64 n && decide (r ≠ 0#8)
  | .primeFermatDefault n => inInt64 n
  | .fermatWitness n k => inInt64 n && inInt64 k
  | .ack => true
  | .clrovr => true
  | .ei => true
  | .di => true
  | .srst => true

/-- The expansion of a pseudo-instruction by the host `m`, as the table of R65 has it. An operand left out is not
written. -/
def expand (m : Nat) : Pseudo → List HostOp
  | .gcd a b => [wr m .opa (word64 a), wr m .opb (word64 b), wr m .cmd 0x01#64, .wait m]
  | .xgcd a b => [wr m .opa (word64 a), wr m .opb (word64 b), wr m .cmd 0x02#64, .wait m]
  | .modpow base e n =>
    [wr m .opa (word64 base), wr m .opb (word64 e), wr m .opc (word64 n), wr m .cmd 0x03#64, .wait m]
  | .modinv k n => [wr m .opa (word64 k), wr m .opb (word64 n), wr m .cmd 0x04#64, .wait m]
  | .primeTd n => [wr m .opa (word64 n), wr m .cmd 0x05#64, .wait m]
  | .primeFermat n r => [wr m .opa (word64 n), wr m .cmd ((r.setWidth 64 <<< 8) ||| 0x06#64), .wait m]
  | .primeFermatDefault n => [wr m .opa (word64 n), wr m .cmd 0x06#64, .wait m]
  | .fermatWitness n k => [wr m .opa (word64 n), wr m .opb (word64 k), wr m .cmd 0x07#64, .wait m]
  | .ack => [wr m .status 0x2#64]
  | .clrovr => [wr m .status 0x8#64]
  | .ei => [wr m .ctrl 0x1#64]
  | .di => [wr m .ctrl 0x0#64]
  | .srst => [wr m .ctrl 0x2#64]

end Sys2Proof.Machine
end

