-- ==== Sys2Proof/Safety.lean ====
section
/-! DEFINITION. What every state of a run satisfies, what counts as a safe run, and which events reset the block: the
terms that claims about whole steps use. -/

namespace Sys2Proof.Machine

/-- The pairs of ERRCODE and ERRDETAIL that R106 lists, and (0, 0) for no error (R105, R106). -/
def legalErrorPair (code : BitVec 4) (detail : BitVec 8) : Bool :=
  match code.toNat with
  | 0 => decide (detail = 0#8)
  | 1 => decide (1 ≤ detail.toNat) && decide (detail.toNat ≤ 7)
  | 3 => decide (1 ≤ detail.toNat) && decide (detail.toNat ≤ 2)
  | 4 => decide (1 ≤ detail.toNat) && decide (detail.toNat ≤ 3)
  | _ => false

/-- The invariant of the block's registers: DONE implies not BUSY (R18); ERR is 1 exactly when ERRCODE is not 0 (R19,
R21); the error codes are a pair R106 lists; while BUSY no error is shown (R71); an error leaves all results 0 (R74);
while BUSY the command latch holds what CMD holds (R16, R31, R71). -/
abbrev State.Inv (s : State) : Prop :=
  (s.done = true → s.fsm = .idle) ∧
  (s.err = true ↔ s.errcode ≠ 0#4) ∧
  legalErrorPair s.errcode s.errdetail = true ∧
  (s.fsm = .busy → s.err = false) ∧
  (s.err = true → s.res0 = 0#64 ∧ s.res1 = 0#64 ∧ s.res2 = 0#64) ∧
  (s.fsm = .busy → s.latCmd = s.cmd)

/-- The reset state of R123: every register at its reset value, IDLE, no fault. The latches are unspecified there, and
the model's own fields are no part of it, so both may hold anything (logs 2 and 12). -/
abbrev State.isReset (s : State) : Prop :=
  s =
    { State.reset with
      latCmd := s.latCmd, latA := s.latA, latB := s.latB, latC := s.latC, host := s.host, responses := s.responses,
      countdown := s.countdown, latencies := s.latencies, draws := s.draws, freeCount := s.freeCount }

/-- A host operation made of admitted transactions alone (R39): a transaction that is admitted, or `WAIT`, whose reads
are. The reset input is no transaction; what it leaves is a reset state again. -/
def HostOp.admitted : HostOp → Bool
  | .access t => t.admitted
  | .wait _ => true
  | .resetInput => false

/-- The states reached from the reset state by admitted transactions and by the completions of the commands they start
(R126). -/
inductive Reached : State → Prop where
  /-- The reset state of R123. -/
  | reset (s : State) (h : s.isReset) : Reached s
  /-- One event of T (R48), a completion or an admitted host operation. -/
  | next (s t : State) (hs : Reached s)
      (h : s.engineTurn = true ∨ ∃ op, s.host.head? = some op ∧ op.admitted = true) (ht : step s = .next t) : Reached t
  /-- The hosts go on with other operations, and the free choices are other ones: the model's own fields (logs 3, 4, 12
  and 13), which no rule ties to the block's state. -/
  | reload (s : State) (host : List HostOp) (responses : List (Nat × Response)) (countdown : Nat)
      (latencies : List Nat) (draws : List Int) (freeCount : Nat) (hs : Reached s) :
      Reached { s with host, responses, countdown, latencies, draws, freeCount }

/-- A state in which a run may start (R126): the reset state, or an IDLE state reached from it by admitted transactions;
the fault set is empty, and no command is in flight. -/
structure State.launch (s : State) : Prop where
  reached : Reached s
  idle : s.fsm = .idle
  noFault : s.faults = []

/-- Nothing has gone wrong for a host: no bus error was caused (R121) and no command word was dropped (R128). -/
abbrev State.safe (s : State) : Prop := s.faults = [] ∧ s.ovr = false

/-- A host operation that resets the block: the reset input, or a CTRL write with bit 1 set (R122). -/
def HostOp.resets : HostOp → Bool
  | .access t =>
    match t.access with
    | .write w => t.admitted && decide (t.off = ctrlOffset) && w.getLsbD 1
    | .read => false
  | .wait _ => false
  | .resetInput => true

/-- The commands: the rows of the opcode table that the engine completes. -/
def isCommand : Instr → Bool
  | .gcd => true
  | .xgcd => true
  | .modpow => true
  | .modinv => true
  | .primeTd => true
  | .primeFermat _ => true
  | .fermatWitness => true
  | .illegal _ => true
  | .ack _ => false
  | .clrovr _ => false
  | .ei _ => false
  | .di _ => false
  | .srst _ => false

end Sys2Proof.Machine
end

