-- ==== Sys2Proof/Certificates/Slice0/Obligations.lean ====
section
/-! DEFINITION. The statements for the provers. Each docstring names the rule of spec/ it formalises. What a command
leaves is written out here as record updates, and its values in Mathlib's own functions or in the spec's loops, so that
a statement does not say a definition of the model over again. -/

namespace Sys2Proof.Claims

/-- The least signed 64-bit integer (R5). -/
def minInt : Int := -9223372036854775808

/-- What a completion that succeeds with three result words leaves (R73). -/
def succeeded (s : Machine.State) (r0 r1 r2 : Word) : Machine.State :=
  { s with
    res0 := r0, res1 := r1, res2 := r2, err := false, errcode := 0#4, errdetail := 0#8, done := true, fsm := .idle }

/-- What a completion that fails with an error kind's code and a sub-cause leaves (R73). -/
def failed (s : Machine.State) (code : BitVec 4) (detail : BitVec 8) : Machine.State :=
  { s with
    res0 := 0#64, res1 := 0#64, res2 := 0#64, err := true, errcode := code, errdetail := detail, done := true,
    fsm := .idle }

/-- What taking a host transaction from the queue leaves before its effect on the block: the bus has answered `r`. -/
def taken (s : Machine.State) (m : Nat) (r : Machine.Response) : Machine.State :=
  { s with host := s.host.tail, countdown := s.countdown - 1, responses := (m, r) :: s.responses }

/-- The host moves next (log 3), and its next operation is this transaction. -/
def nextIs (s : Machine.State) (m width : Nat) (off : Offset) (acc : Machine.Access) : Prop :=
  s.engineTurn = false ∧ s.host.head? = some (.access ⟨m, width, off, acc⟩)

/-- The next event of the order T resets the block (R122). -/
def resetNext (s : Machine.State) : Prop :=
  s.engineTurn = false ∧ ∃ op, s.host.head? = some op ∧ op.resets = true

/-- Two states agree on all of the block's own state (R13). -/
def sameBlock (s t : Machine.State) : Prop :=
  s.cmd = t.cmd ∧ s.done = t.done ∧ s.err = t.err ∧ s.ovr = t.ovr ∧ s.errcode = t.errcode ∧
  s.errdetail = t.errdetail ∧ s.ie = t.ie ∧ s.opa = t.opa ∧ s.opb = t.opb ∧ s.opc = t.opc ∧ s.res0 = t.res0 ∧
  s.res1 = t.res1 ∧ s.res2 = t.res2 ∧ s.fsm = t.fsm ∧ s.latCmd = t.latCmd ∧ s.latA = t.latA ∧ s.latB = t.latB ∧
  s.latC = t.latC

/-- Two completions show the host the same outcome: results and error fields. -/
def sameOutcome (s t : Machine.State) : Prop :=
  s.res0 = t.res0 ∧ s.res1 = t.res1 ∧ s.res2 = t.res2 ∧ s.err = t.err ∧ s.errcode = t.errcode ∧
  s.errdetail = t.errdetail

/-- Every register of the block at its reset value (R123); the latches are left out, being unspecified there. -/
def atReset (t : Machine.State) : Prop :=
  t.cmd = 0#64 ∧ t.done = false ∧ t.err = false ∧ t.ovr = false ∧ t.errcode = 0#4 ∧ t.errdetail = 0#8 ∧
  t.ie = false ∧ t.opa = 0#64 ∧ t.opb = 0#64 ∧ t.opc = 0#64 ∧ t.res0 = 0#64 ∧ t.res1 = 0#64 ∧ t.res2 = 0#64 ∧
  t.fsm = .idle ∧ t.irq = false ∧ t.statusWord = 0#64 ∧ t.ctrlWord = 0#64 ∧
  t.readOffset 0x00#8 = 0x000000004D580100#64 ∧
  (∀ off : Offset, off.toNat = 0x38 ∨ 0x58 ≤ off.toNat → t.readOffset off = 0#64)

/-- R58 in arithmetic: OPCODE is w mod 2^8, ROUNDS the next byte, RSVD the rest. -/
def legalWord (w : Word) : Prop :=
  1 ≤ w.toNat % 256 ∧ w.toNat % 256 ≤ 7 ∧ w.toNat / 65536 = 0 ∧
  (w.toNat / 256 % 256 = 0 ∨ w.toNat % 256 = 6)

/-- The loop of R88 as a relation: from remainders x, y and pairs s, t it ends with gcd g and pair c. -/
inductive Pulverized : Nat → Nat → Int × Int → Int × Int → Nat → Int × Int → Prop where
  | stop (x : Nat) (s t : Int × Int) : Pulverized x 0 s t x s
  | step (x y : Nat) (s t : Int × Int) (g : Nat) (c : Int × Int) (h : y ≠ 0)
      (next : Pulverized y (x % y) t
        (s.1 - t.1 * (((x - x % y) / y : Nat) : Int), s.2 - t.2 * (((x - x % y) / y : Nat) : Int)) g c) :
      Pulverized x y s t g c

/-- The number of rounds that a ROUNDS field selects (R59). -/
def roundsRun (r : BitVec 8) : Nat := if r.toNat = 0 then 50 else r.toNat

/-- One Fermat round passes: `k^(n-1) mod n = 1` (R100). -/
def passes (n k : Int) : Prop := k ^ (n - 1).toNat % n = 1

/-- The witness tape and the count of free values after `k` draws. -/
def afterRounds (s : Machine.State) (k : Nat) : Machine.State :=
  { s with draws := s.draws.drop k, freeCount := s.freeCount + k }

/-- A command is in flight: `i` is what its word decodes to, and a, b, c stand in the operand registers and in their
latches. -/
def inFlight (t : Machine.State) (i : Instr) (a b c : Word) : Prop :=
  t.fsm = .busy ∧ decodeCommand t.latCmd = i ∧ t.cmd = t.latCmd ∧ t.opa = a ∧ t.opb = b ∧ t.opc = c ∧
  t.latA = a ∧ t.latB = b ∧ t.latC = c

/-- The host `m` sends the expansion of `p` and then `rest`: after `k` steps `i` is in flight on a, b, c, and the
expansion's WAIT comes next. -/
def calls (s : Machine.State) (m : Nat) (rest : List Machine.HostOp) (p : Machine.Pseudo) (k : Nat) (i : Instr)
    (a b c : Word) : Prop :=
  ∃ t : Machine.State, Host.Core.run core k { s with host := Machine.expand m p ++ rest } = .next t ∧
    inFlight t i a b c ∧ t.host = .wait m :: rest

end Sys2Proof.Claims

open Sys2Proof Sys2Proof.Machine Sys2Proof.Claims

/-! ### Encoding -/

/-- R56, R57, R75 to R77, R42: decoding the bytes an instruction is encoded as, at the offset it is encoded for, gives
the instruction back and leaves the bytes after it. -/
def Obligations.DecodeEncodeRoundTrip : Prop :=
  ∀ i : Instr, i.wellFormed = true → ∀ rest : List Byte,
    decodeBytes (encode i).1 ((encode i).2 ++ rest) = .ok (i, rest)

/-- The other direction: whatever the decoder accepts is well formed and encodes to that offset and word. -/
def Obligations.EncodeDecodeRoundTrip : Prop :=
  ∀ (off : Offset) (w : Word) (i : Instr), decodeWrite off w = .ok i →
    i.wellFormed = true ∧ encodeOffset i = off ∧ encodeWord i = w

/-- R57, R58, R62: a legal command word selects the command of its opcode, and every other word is illegal. -/
def Obligations.CommandWordDecodes : Prop :=
  ∀ w : Word,
    (legalWord w →
      (w.toNat % 256 = 1 → decodeCommand w = .gcd) ∧ (w.toNat % 256 = 2 → decodeCommand w = .xgcd) ∧
      (w.toNat % 256 = 3 → decodeCommand w = .modpow) ∧ (w.toNat % 256 = 4 → decodeCommand w = .modinv) ∧
      (w.toNat % 256 = 5 → decodeCommand w = .primeTd) ∧
      (w.toNat % 256 = 6 → decodeCommand w = .primeFermat (BitVec.ofNat 8 (w.toNat / 256))) ∧
      (w.toNat % 256 = 7 → decodeCommand w = .fermatWitness)) ∧
    (¬ legalWord w → decodeCommand w = .illegal w)

/-- A few words written out from R57, R59, R63 and R75 to R77, as the bytes of their offset. -/
def Obligations.SampleWordsDecode : Prop :=
  decodeBytes 0x08#8 [0x01#8, 0, 0, 0, 0, 0, 0, 0] = .ok (.gcd, []) ∧
  decodeBytes 0x08#8 [0x03#8, 0, 0, 0, 0, 0, 0, 0] = .ok (.modpow, []) ∧
  decodeBytes 0x08#8 [0x06#8, 0x32#8, 0, 0, 0, 0, 0, 0] = .ok (.primeFermat 50#8, []) ∧
  decodeBytes 0x08#8 [0x06#8, 0, 0, 0, 0, 0, 0, 0x80#8] = .ok (.illegal 0x8000000000000006#64, []) ∧
  decodeBytes 0x10#8 [0x02#8, 0, 0, 0, 0, 0, 0, 0] = .ok (.ack 2#64, []) ∧
  decodeBytes 0x10#8 [0x08#8, 0, 0, 0, 0, 0, 0, 0] = .ok (.clrovr 8#64, []) ∧
  decodeBytes 0x18#8 [0x01#8, 0, 0, 0, 0, 0, 0, 0] = .ok (.ei 1#64, []) ∧
  decodeBytes 0x18#8 [0x03#8, 0, 0, 0, 0, 0, 0, 0] = .ok (.srst 3#64, [])

/-! ### A step runs the decoded instruction -/

/-- R58, R70, R73: while a command is in flight and its latency is over (or no host operation is left, log 3), the step
is the meaning of the instruction that lat[CMD] decodes to, at that state. -/
def Obligations.StepRunsDecodedCommand : Prop :=
  ∀ s : State, s.fsm = .busy → s.countdown = 0 ∨ s.host = [] → step s = exec (decodeCommand s.latCmd) s

/-- R48, R75 to R77: where the next host operation is a 64-bit write that decodes to a control row, the step is that
row's meaning, after the bus has taken and answered the write. -/
def Obligations.StepRunsDecodedControlWrite : Prop :=
  ∀ (s : State) (m : Nat) (off : Offset) (w : Word) (i : Instr),
    nextIs s m 64 off (.write w) → off = 0x10#8 ∨ off = 0x18#8 → decodeWrite off w = .ok i →
    step s = exec i (taken s m .written)

/-- Log 12: `withFetchWord` places the instruction a table word decodes to where the very next step runs it: a command
in the state it makes, a control row after the bus has answered its write. -/
def Obligations.FetchWordIsRunNext : Prop :=
  ∀ (s : State) (nbits w : Nat) (i : Instr), decodeTableWord nbits w = some i →
    (isCommand i = true → step (s.withFetchWord nbits w) = exec i (s.withFetchWord nbits w)) ∧
    (isCommand i = false →
      step (s.withFetchWord nbits w) = exec i { s with responses := (0, .written) :: s.responses })

/-! ### The GCD family -/

/-- R86: GCD's command word, its errors in their order, and the greatest common divisor. -/
def Obligations.GcdOutcome : Prop :=
  decodeCommand 0x0000000000000001#64 = .gcd ∧
  ∀ s : State, s.fsm = .busy →
    exec .gcd s = .next
      (if s.latA.toInt = minInt ∨ s.latB.toInt = minInt then failed s 3#4 1#8
      else if s.latA.toInt = 0 ∧ s.latB.toInt = 0 then failed s 1#4 1#8
      else if s.latA.toInt.natAbs < s.latB.toInt.natAbs then failed s 1#4 2#8
      else succeeded s (BitVec.ofNat 64 (Int.gcd s.latA.toInt s.latB.toInt)) 0#64 0#64)

/-- R87: a successful GCD result divides both operands, every common divisor divides it, and so it is the largest. -/
def Obligations.GcdIsGreatestCommonDivisor : Prop :=
  ∀ s t : State, exec .gcd s = .next t → t.err = false →
    t.res0.toInt ∣ s.latA.toInt ∧ t.res0.toInt ∣ s.latB.toInt ∧
    (∀ d : Int, d ∣ s.latA.toInt → d ∣ s.latB.toInt → d ∣ t.res0.toInt ∧ d ≤ t.res0.toInt)

/-- R88: XGCD's command word, its errors in their order, and the pair of the exact iteration with the sign fix-up;
RESULT_RANGE is never raised. -/
def Obligations.XgcdFollowsIteration : Prop :=
  decodeCommand 0x0000000000000002#64 = .xgcd ∧
  ∀ s : State, s.fsm = .busy →
    ∃ (g : Nat) (c : Int × Int),
      Pulverized s.latA.toInt.natAbs s.latB.toInt.natAbs (1, 0) (0, 1) g c ∧
      exec .xgcd s = .next
        (if s.latA.toInt = minInt ∨ s.latB.toInt = minInt then failed s 3#4 1#8
        else if s.latA.toInt = 0 ∧ s.latB.toInt = 0 then failed s 1#4 1#8
        else if s.latA.toInt.natAbs < s.latB.toInt.natAbs then failed s 1#4 2#8
        else succeeded s (BitVec.ofInt 64 (if s.latA.toInt < 0 then -c.1 else c.1))
          (BitVec.ofInt 64 (if s.latB.toInt < 0 then -c.2 else c.2)) (BitVec.ofNat 64 g))

/-- R89: on success `s0*a + s1*b = g`, g is GCD's result for the same operands; each loop step keeps the two linear
relations of its pairs, and so the final pair has that of the gcd. -/
def Obligations.XgcdBezout : Prop :=
  (∀ s t : State, exec .xgcd s = .next t → t.err = false →
    t.res0.toInt * s.latA.toInt + t.res1.toInt * s.latB.toInt = t.res2.toInt ∧
    ∃ u : State, exec .gcd s = .next u ∧ u.err = false ∧ u.res0 = t.res2) ∧
  (∀ (a b x y : Nat) (s t : Int × Int), y ≠ 0 → s.1 * a + s.2 * b = x → t.1 * a + t.2 * b = y →
    (s.1 - t.1 * (((x - x % y) / y : Nat) : Int)) * a + (s.2 - t.2 * (((x - x % y) / y : Nat) : Int)) * b =
      ((x % y : Nat) : Int)) ∧
  (∀ (a b x y g : Nat) (s t c : Int × Int), Pulverized x y s t g c →
    s.1 * a + s.2 * b = x → t.1 * a + t.2 * b = y → c.1 * a + c.2 * b = g)

/-- R90 (which the spec takes from general knowledge): the size of XGCD's coefficients. -/
def Obligations.XgcdCoefficientBound : Prop :=
  ∀ s t : State, exec .xgcd s = .next t → t.err = false →
    t.res0.toInt.natAbs ≤ max 1 (s.latB.toInt.natAbs / Int.gcd s.latA.toInt s.latB.toInt) ∧
    t.res1.toInt.natAbs ≤ s.latA.toInt.natAbs / Int.gcd s.latA.toInt s.latB.toInt

/-! ### The modular family -/

/-- R92: MODPOW's command word, its errors in their order, and the value of the document's loop, started at
`floor_mod(1, m)` (C1). -/
def Obligations.ModpowRunsTheLoop : Prop :=
  decodeCommand 0x0000000000000003#64 = .modpow ∧
  ∀ s : State, s.fsm = .busy →
    exec .modpow s = .next
      (if s.latB.toInt < 0 then failed s 1#4 3#8
      else if s.latC.toInt ≤ 0 then failed s 1#4 4#8
      else succeeded s
        (BitVec.ofInt 64
          (Nat.iterate (fun r : Int => r * (s.latA.toInt % s.latC.toInt) % s.latC.toInt) s.latB.toInt.toNat
            (1 % s.latC.toInt)))
        0#64 0#64)

/-- R93: where MODPOW succeeds, its result is `floor_mod(base^e, m)`, with `base^0 = 1`, a value in [0, m). -/
def Obligations.ModpowIsPower : Prop :=
  ∀ s : State, s.fsm = .busy → 0 ≤ s.latB.toInt → 0 < s.latC.toInt →
    ∃ t : State, exec .modpow s = .next t ∧ t.err = false ∧
      t.res0.toInt = s.latA.toInt ^ s.latB.toInt.toNat % s.latC.toInt ∧
      0 ≤ t.res0.toInt ∧ t.res0.toInt < s.latC.toInt

/-- R94 to R96: MODINV's command word, its errors in their order, its success exactly where R96 says, and the inverse of
k in [0, m), of which there is only one. -/
def Obligations.ModinvOutcome : Prop :=
  decodeCommand 0x0000000000000004#64 = .modinv ∧
  ∀ s : State, s.fsm = .busy →
    ∃ x : Int,
      (0 < s.latB.toInt → Int.gcd s.latB.toInt s.latA.toInt = 1 →
        0 ≤ x ∧ x < s.latB.toInt ∧ s.latB.toInt ∣ s.latA.toInt * x - 1 ∧
        ∀ y : Int, 0 ≤ y → y < s.latB.toInt → s.latB.toInt ∣ s.latA.toInt * y - 1 → y = x) ∧
      exec .modinv s = .next
        (if s.latA.toInt = minInt ∨ s.latB.toInt = minInt then failed s 3#4 1#8
        else if s.latB.toInt ≤ 0 then failed s 1#4 4#8
        else if s.latB.toInt < s.latA.toInt.natAbs then failed s 1#4 2#8
        else if Int.gcd s.latB.toInt s.latA.toInt ≠ 1 then failed s 1#4 5#8
        else succeeded s (BitVec.ofInt 64 x) 0#64 0#64)

/-! ### The primality family -/

/-- R98, R99: PRIME_TD's command word; it is exact, and reports the smallest divisor above 1, a prime, of a number that
is not prime. -/
def Obligations.PrimeTdIsExact : Prop :=
  decodeCommand 0x0000000000000005#64 = .primeTd ∧
  ∀ s : State, s.fsm = .busy →
    (s.latA.toInt ≤ 1 → exec .primeTd s = .next (failed s 1#4 6#8)) ∧
    (1 < s.latA.toInt → (∀ d : Int, 1 < d → d < s.latA.toInt → ¬ d ∣ s.latA.toInt) →
      exec .primeTd s = .next (succeeded s 1#64 0#64 0#64)) ∧
    (∀ d : Int, 1 < d → d < s.latA.toInt → d ∣ s.latA.toInt →
      (∀ e : Int, 1 < e → e < d → ¬ e ∣ s.latA.toInt) →
      Nat.Prime d.toNat ∧ exec .primeTd s = .next (succeeded s 0#64 (BitVec.ofInt 64 d) 0#64))

/-- R102: FERMAT_WITNESS's command word, its errors in their order, and the value of the round; a witness that shares a
factor with n fails. -/
def Obligations.FermatWitnessOutcome : Prop :=
  decodeCommand 0x0000000000000007#64 = .fermatWitness ∧
  ∀ s : State, s.fsm = .busy →
    exec .fermatWitness s = .next
      (if s.latA.toInt ≤ 1 then failed s 1#4 6#8
      else if s.latB.toInt < 1 ∨ s.latA.toInt - 1 < s.latB.toInt then failed s 1#4 7#8
      else succeeded s
        (if s.latB.toInt ^ (s.latA.toInt - 1).toNat % s.latA.toInt = 1 then 1#64 else 0#64)
        (BitVec.ofInt 64 (s.latB.toInt ^ (s.latA.toInt - 1).toNat % s.latA.toInt)) 0#64) ∧
    (Int.gcd s.latB.toInt s.latA.toInt ≠ 1 →
      ∃ t : State, exec .fermatWitness s = .next t ∧ t.res0 = 0#64)

/-- R100, R59: PRIME_FERMAT's command word; it fails for n ≤ 1; else its witnesses d lie in [1, n-1], and it stops at
the first witness that fails, or passes after R rounds. What the draws leave of the witness source is left open here. -/
def Obligations.PrimeFermatOutcome : Prop :=
  (∀ r : BitVec 8, decodeCommand (BitVec.ofNat 64 (r.toNat * 256 + 6)) = .primeFermat r ∧
    1 ≤ roundsRun r ∧ roundsRun r ≤ 255) ∧
  ∀ (s : State) (r : BitVec 8), s.fsm = .busy →
    (s.latA.toInt ≤ 1 → exec (.primeFermat r) s = .next (failed s 1#4 6#8)) ∧
    (1 < s.latA.toInt →
      ∃ (d : Nat → Int) (tape : List Int) (used : Nat),
        (∀ i, 1 ≤ i → i ≤ roundsRun r → 1 ≤ d i ∧ d i ≤ s.latA.toInt - 1) ∧
        (((∀ i, 1 ≤ i → i ≤ roundsRun r → passes s.latA.toInt (d i)) ∧
          exec (.primeFermat r) s = .next
            { succeeded s 1#64 0#64 (BitVec.ofNat 64 (roundsRun r)) with draws := tape, freeCount := used }) ∨
        (∃ i, 1 ≤ i ∧ i ≤ roundsRun r ∧ (∀ j, 1 ≤ j → j < i → passes s.latA.toInt (d j)) ∧
          ¬ passes s.latA.toInt (d i) ∧
          exec (.primeFermat r) s = .next
            { succeeded s 0#64 (BitVec.ofInt 64 (d i)) (BitVec.ofNat 64 i) with
              draws := tape, freeCount := used })))

/-- R101 on the model's witness tape (log 4, the model's choice): the completion is taken with whatever admissible
sequence the tape gives, and with no other: every witness drawn lies in [1, n-1]. The draws taken are used up (R32). -/
def Obligations.EveryAdmissibleDrawIsTaken : Prop :=
  (∀ (s : State) (n : Int) (i : Nat), 2 ≤ n → 1 ≤ s.draw n i ∧ s.draw n i ≤ n - 1) ∧
  ∀ (s : State) (r : BitVec 8) (d : Nat → Int), s.fsm = .busy → 1 < s.latA.toInt →
    (∀ i, 1 ≤ i → i ≤ roundsRun r → 1 ≤ d i ∧ d i ≤ s.latA.toInt - 1) →
    s.draws = (List.range (roundsRun r)).map (fun j => d (j + 1)) →
    ((∀ i, 1 ≤ i → i ≤ roundsRun r → passes s.latA.toInt (d i)) →
      exec (.primeFermat r) s = .next
        (succeeded (afterRounds s (roundsRun r)) 1#64 0#64 (BitVec.ofNat 64 (roundsRun r)))) ∧
    (∀ i, 1 ≤ i → i ≤ roundsRun r → (∀ j, 1 ≤ j → j < i → passes s.latA.toInt (d j)) →
      ¬ passes s.latA.toInt (d i) →
      exec (.primeFermat r) s = .next
        (succeeded (afterRounds s i) 0#64 (BitVec.ofInt 64 (d i)) (BitVec.ofNat 64 i)))

/-- R103 on the model's witness source (`State.draw`, log 4): PRIME_FERMAT's outcome is that of FERMAT_WITNESS on its
witnesses, one by one. -/
def Obligations.FermatRunReplays : Prop :=
  ∀ (s t : State) (r : BitVec 8), 1 < s.latA.toInt → exec (.primeFermat r) s = .next t →
    ∃ round : Nat → State,
      (∀ j, exec .fermatWitness { s with latB := BitVec.ofInt 64 (s.draw s.latA.toInt j) } = .next (round j)) ∧
      (∀ i, 1 ≤ i → i ≤ roundsRun r →
        ((t.res0 = 0#64 ∧ t.res1 = BitVec.ofInt 64 (s.draw s.latA.toInt i) ∧ t.res2 = BitVec.ofNat 64 i) ↔
          ((∀ j, 1 ≤ j → j < i → (round j).res0 = 1#64) ∧ (round i).res0 = 0#64))) ∧
      ((t.res0 = 1#64 ∧ t.res1 = 0#64 ∧ t.res2 = BitVec.ofNat 64 (roundsRun r)) ↔
        ∀ j, 1 ≤ j → j ≤ roundsRun r → (round j).res0 = 1#64)

/-- R104 with the model's witness tape (log 4): a prime passes PRIME_FERMAT under every draw and FERMAT_WITNESS for every legal witness; and any n, composite
or not, passes where the witnesses drawn are all 1. -/
def Obligations.FermatErrsOnOneSide : Prop :=
  ∀ (s : State) (r : BitVec 8), s.fsm = .busy →
    (Nat.Prime s.latA.toInt.toNat →
      exec (.primeFermat r) s = .next
        (succeeded (afterRounds s (roundsRun r)) 1#64 0#64 (BitVec.ofNat 64 (roundsRun r)))) ∧
    (Nat.Prime s.latA.toInt.toNat → 1 ≤ s.latB.toInt → s.latB.toInt ≤ s.latA.toInt - 1 →
      exec .fermatWitness s = .next (succeeded s 1#64 1#64 0#64)) ∧
    (1 < s.latA.toInt → s.draws = List.replicate (roundsRun r) 1 →
      exec (.primeFermat r) s = .next
        (succeeded (afterRounds s (roundsRun r)) 1#64 0#64 (BitVec.ofNat 64 (roundsRun r))))

/-! ### Illegal words and what all commands share -/

/-- R63: an illegal word is decoded as illegal and completes with IllegalCommand and the first sub-cause that applies. -/
def Obligations.IllegalWordCompletes : Prop :=
  ∀ (w : Word) (s : State), ¬ legalWord w → s.fsm = .busy →
    decodeCommand w = .illegal w ∧
    exec (.illegal w) s = .next
      (failed s 4#4
        (if w.toNat % 256 = 0 ∨ 8 ≤ w.toNat % 256 then 1#8 else if w.toNat / 65536 ≠ 0 then 2#8 else 3#8))

/-- R67, R70, R134: in flight, every command has its completion, whatever the operands: no fault, no hang. -/
def Obligations.EveryCommandCompletes : Prop :=
  ∀ (i : Instr) (s : State), isCommand i = true → s.fsm = .busy →
    ∃ t : State, exec i s = .next t ∧ t.done = true ∧ t.fsm = .idle

/-- R67, R70: the engine has no step while IDLE. -/
def Obligations.IdleEngineHasNoStep : Prop :=
  ∀ (i : Instr) (s : State), isCommand i = true → s.fsm = .idle → exec i s = .refused .noEnabledStep

/-- R73: what a completion leaves unchanged: OVR, CTRL, CMD, OPA to OPC, the latches; and everything outside the block
but the draws that PRIME_FERMAT used. -/
def Obligations.CompletionFrame : Prop :=
  ∀ (i : Instr) (s t : State), isCommand i = true → exec i s = .next t →
    t.ovr = s.ovr ∧ t.ie = s.ie ∧ t.cmd = s.cmd ∧ t.opa = s.opa ∧ t.opb = s.opb ∧ t.opc = s.opc ∧
    t.latCmd = s.latCmd ∧ t.latA = s.latA ∧ t.latB = s.latB ∧ t.latC = s.latC ∧
    t.faults = s.faults ∧ t.host = s.host ∧ t.responses = s.responses ∧ t.countdown = s.countdown ∧
    t.latencies = s.latencies ∧
    ((∀ r, i ≠ .primeFermat r) → t.draws = s.draws ∧ t.freeCount = s.freeCount)

/-- R74: a completion that ends in an error leaves 0 in all three result registers. -/
def Obligations.ErrorLeavesNoResult : Prop :=
  ∀ (i : Instr) (s t : State), isCommand i = true → exec i s = .next t → t.err = true →
    t.res0 = 0#64 ∧ t.res1 = 0#64 ∧ t.res2 = 0#64

/-- R68: a command's outcome depends on its latched operands only, and for PRIME_FERMAT on the draws. -/
def Obligations.OutcomeReadsLatchesOnly : Prop :=
  ∀ (i : Instr) (s t : State), isCommand i = true → s.fsm = .busy → t.fsm = .busy →
    s.latA = t.latA → s.latB = t.latB → s.latC = t.latC →
    ((∃ r, i = .primeFermat r) → s.draws = t.draws ∧ s.freeCount = t.freeCount) →
    ∃ u v : State, exec i s = .next u ∧ exec i t = .next v ∧ sameOutcome u v

/-- R8, R68: on 64-bit operands every result integer of every command is a signed 64-bit integer, so `word64` is defined
on it. -/
def Obligations.ResultsFitInt64 : Prop :=
  ∀ (wa wb wc : Word) (r : BitVec 8) (draws : Nat → Int) (r0 r1 r2 : Int),
    (∀ i, 1 ≤ i → i ≤ roundsRun r → 1 ≤ draws i ∧ draws i ≤ wa.toInt - 1) ∨ wa.toInt ≤ 1 →
    gcdResult wa.toInt wb.toInt = .ok r0 r1 r2 ∨ xgcdResult wa.toInt wb.toInt = .ok r0 r1 r2 ∨
    modpowResult wa.toInt wb.toInt wc.toInt = .ok r0 r1 r2 ∨ modinvResult wa.toInt wb.toInt = .ok r0 r1 r2 ∨
    primeTdResult wa.toInt = .ok r0 r1 r2 ∨ primeFermatResult wa.toInt (roundsRun r) draws = .ok r0 r1 r2 ∨
    fermatWitnessResult wa.toInt wb.toInt = .ok r0 r1 r2 →
    (minInt ≤ r0 ∧ r0 < -minInt) ∧ (minInt ≤ r1 ∧ r1 < -minInt) ∧ (minInt ≤ r2 ∧ r2 < -minInt)

/-! ### Control operations -/

/-- R75: ACK and CLROVR, as instructions and as any 64-bit STATUS write in either engine state: DONE and OVR are cleared
where the written bit is 1, nothing else changes; a cleared DONE lowers irq; while BUSY bit 1 has no effect, since DONE
is 0 there (R18). -/
def Obligations.StatusWriteClears : Prop :=
  ∀ (s : State) (w : Word),
    let cleared (t : State) : State :=
      { t with done := if w.getLsbD 1 then false else t.done, ovr := if w.getLsbD 3 then false else t.ovr }
    exec (.ack w) s = .next (cleared s) ∧ exec (.clrovr w) s = .next (cleared s) ∧
    (w.getLsbD 1 = true → (cleared s).irq = false) ∧
    (s.Inv → s.fsm = .busy → (cleared s).done = s.done) ∧
    ∀ m, nextIs s m 64 0x10#8 (.write w) → step s = .next (cleared (taken s m .written))

/-- R76: EI and DI, as instructions and as any 64-bit CTRL write with bit 1 clear in either engine state: IE takes bit
0, nothing else changes. -/
def Obligations.CtrlWriteSetsEnable : Prop :=
  ∀ (s : State) (w : Word), w.getLsbD 1 = false →
    exec (.ei w) s = .next { s with ie := w.getLsbD 0 } ∧
    exec (.di w) s = .next { s with ie := w.getLsbD 0 } ∧
    ∀ m, nextIs s m 64 0x18#8 (.write w) → step s = .next { taken s m .written with ie := w.getLsbD 0 }

/-- R77, R123: SRST, as an instruction and as any 64-bit CTRL write with bit 1 set in either engine state and whatever
bit 0 is: the block reset. The command in flight is gone: the engine is IDLE and the results are 0. -/
def Obligations.SrstResetsBlock : Prop :=
  ∀ (s : State) (w : Word), w.getLsbD 1 = true →
    (∃ t : State, exec (.srst w) s = .next t ∧ atReset t ∧ t.faults = s.faults ∧ t.host = s.host ∧
      t.responses = s.responses) ∧
    ∀ m, nextIs s m 64 0x18#8 (.write w) →
      ∃ t : State, step s = .next t ∧ atReset t ∧ t.faults = s.faults ∧ t.host = s.host.tail ∧
        t.responses = (m, .written) :: s.responses

/-- R122, R123: the hardware reset input, which the model takes as one event (log 11): the reset values of every piece of
state; the fault set is not cleared. -/
def Obligations.ResetInputResetsBlock : Prop :=
  ∀ s : State, s.engineTurn = false → s.host.head? = some .resetInput →
    ∃ t : State, step s = .next t ∧ atReset t ∧ t.faults = s.faults

/-- R123, R124: the state after reset: every register the spec gives a value has it, no fault is recorded, and a run may
start there (R126). The latches' value there is the model's choice (log 2), and this says nothing of it. -/
def Obligations.ResetStateValues : Prop := atReset State.reset ∧ State.reset.launch

/-! ### Host transactions -/

/-- R71: accept. A CMD write while IDLE latches the word, whatever it is, and the operand registers; the rest of the
block stays. How long the command will take is left open here (log 3). -/
def Obligations.AcceptLatchesCommand : Prop :=
  ∀ (s : State) (m : Nat) (w : Word), s.fsm = .idle → nextIs s m 64 0x08#8 (.write w) →
    ∃ (latency : Nat) (tape : List Nat) (used : Nat),
      step s = .next
        { taken s m .written with
          latCmd := w, latA := s.opa, latB := s.opb, latC := s.opc, cmd := w, fsm := .busy, done := false,
          err := false, errcode := 0#4, errdetail := 0#8, countdown := latency, latencies := tape,
          freeCount := used }

/-- R72: drop. A CMD write while BUSY sets OVR and nothing else. -/
def Obligations.BusyCmdWriteDropped : Prop :=
  ∀ (s : State) (m : Nat) (w : Word), s.fsm = .busy → nextIs s m 64 0x08#8 (.write w) →
    step s = .next { taken s m .written with ovr := true }

/-- R78: an operand write stores the word, in either engine state. -/
def Obligations.OperandWriteStores : Prop :=
  ∀ (s : State) (m : Nat) (w : Word),
    (nextIs s m 64 0x20#8 (.write w) → step s = .next { taken s m .written with opa := w }) ∧
    (nextIs s m 64 0x28#8 (.write w) → step s = .next { taken s m .written with opb := w }) ∧
    (nextIs s m 64 0x30#8 (.write w) → step s = .next { taken s m .written with opc := w })

/-- R79: a write to ID, RES0 to RES2 or a reserved offset changes nothing and is no fault. -/
def Obligations.IgnoredWrites : Prop :=
  ∀ (s : State) (m : Nat) (off : Offset) (w : Word), off.toNat % 8 = 0 →
    off.toNat ∈ [0x00, 0x38, 0x40, 0x48, 0x50] ∨ 0x58 ≤ off.toNat →
    nextIs s m 64 off (.write w) → step s = .next (taken s m .written)

/-- R80, R44, R41: a read of any admitted offset, in either engine state, returns the register there and changes nothing;
STATUS and CTRL with their fields at their bits. -/
def Obligations.ReadReturnsRegister : Prop :=
  ∀ (s : State) (m : Nat) (off : Offset), off.toNat % 8 = 0 → nextIs s m 64 off .read →
    step s = .next (taken s m (.data
      (match off.toNat with
        | 0x00 => 0x000000004D580100#64
        | 0x08 => s.cmd
        | 0x10 => BitVec.ofNat 64 ((if s.fsm = .busy then 1 else 0) + s.done.toNat * 2 + s.err.toNat * 4 +
            s.ovr.toNat * 8 + s.errcode.toNat * 256 + s.errdetail.toNat * 65536)
        | 0x18 => BitVec.ofNat 64 s.ie.toNat
        | 0x20 => s.opa
        | 0x28 => s.opb
        | 0x30 => s.opc
        | 0x40 => s.res0
        | 0x48 => s.res1
        | 0x50 => s.res2
        | _ => 0#64)))

/-- R40 (with R39, R121): any other width, and any offset that is no multiple of 8, is refused: a bus error response
without data, a fault recorded, and no other change; no step takes a fault away again. -/
def Obligations.RefusedTransactionChangesNothing : Prop :=
  (∀ (s : State) (m width : Nat) (off : Offset) (acc : Access), width ≠ 64 ∨ off.toNat % 8 ≠ 0 →
    nextIs s m width off acc →
    step s = .next { taken s m .busError with faults := .busError m width off acc :: s.faults }) ∧
  ∀ s t : State, step s = .next t → s.faults <:+ t.faults

/-- R121: the fault set only grows, and only by the transaction just refused; no step stops with a fault. -/
def Obligations.FaultsAreNeverCleared : Prop :=
  ∀ s : State, (∀ f, step s ≠ .fault f) ∧
    ∀ t : State, step s = .next t →
      t.faults = s.faults ∨
      ∃ m width off acc, nextIs s m width off acc ∧ (width ≠ 64 ∨ off.toNat % 8 ≠ 0) ∧
        t.faults = .busError m width off acc :: s.faults

/-- R115: a transaction has the same effect on the block whichever master issues it. -/
def Obligations.MasterHasNoEffect : Prop :=
  ∀ (s : State) (m m' width : Nat) (off : Offset) (acc : Access), nextIs s m width off acc →
    ∃ t t' : State, step s = .next t ∧
      step { s with host := .access ⟨m', width, off, acc⟩ :: s.host.tail } = .next t' ∧ sameBlock t t'

/-- R64: one poll of WAIT reads STATUS and changes nothing in the block; the operation is done when the read shows
BUSY = 0. -/
def Obligations.WaitPollsStatus : Prop :=
  ∀ (s : State) (m : Nat), s.engineTurn = false → s.host.head? = some (.wait m) →
    step s = .next
      { s with
        responses := (m, .data s.statusWord) :: s.responses, countdown := s.countdown - 1,
        host := if s.statusWord.getLsbD 0 then s.host else s.host.tail }

/-- R67, R124 (log 7): with no host operation left, an IDLE block has no step. -/
def Obligations.IdleBlockWaits : Prop :=
  ∀ s : State, s.fsm = .idle → s.host = [] → step s = .refused .noEnabledStep

/-! ### Whole-machine rules -/

/-- R28, R127: only a completion or a reset changes RES0 to RES2. -/
def Obligations.ResultsChangeOnlyAtCompletionOrReset : Prop :=
  ∀ s t : State, step s = .next t →
    s.engineTurn = true ∨ resetNext s ∨ (t.res0 = s.res0 ∧ t.res1 = s.res1 ∧ t.res2 = s.res2)

/-- R16: CMD changes only by an accepted CMD write, and then takes the whole word, or by a reset. -/
def Obligations.CmdChangesOnlyAtAcceptOrReset : Prop :=
  ∀ s t : State, step s = .next t →
    t.cmd = s.cmd ∨ resetNext s ∨
    (s.fsm = .idle ∧ ∃ m w, nextIs s m 64 0x08#8 (.write w) ∧ t.cmd = w)

/-- R20: OVR is set only by a CMD write dropped while BUSY, and cleared only by a STATUS write with bit 3 set or by a
reset. -/
def Obligations.OverrunIsSticky : Prop :=
  ∀ s t : State, step s = .next t →
    (s.ovr = false → t.ovr = true → s.fsm = .busy ∧ ∃ m w, nextIs s m 64 0x08#8 (.write w)) ∧
    (s.ovr = true → t.ovr = false →
      resetNext s ∨ ∃ m w, nextIs s m 64 0x10#8 (.write w) ∧ w.getLsbD 3 = true)

/-- R111: irq rises only by a completion with IE = 1, or by enabling IE while DONE is pending. -/
def Obligations.InterruptRisesOnlyByCompletionOrEnable : Prop :=
  ∀ s t : State, step s = .next t → s.irq = false → t.irq = true →
    (s.engineTurn = true ∧ s.ie = true) ∨
    (s.done = true ∧ ∃ m w, nextIs s m 64 0x18#8 (.write w) ∧ w.getLsbD 1 = false ∧ w.getLsbD 0 = true)

/-- R111, R113: irq falls only by ACK, by an accepted CMD write, by a reset, or by clearing IE. -/
def Obligations.InterruptFallsOnlyByAckAcceptResetOrDisable : Prop :=
  ∀ s t : State, step s = .next t → s.irq = true → t.irq = false →
    (∃ m w, nextIs s m 64 0x10#8 (.write w) ∧ w.getLsbD 1 = true) ∨
    (s.fsm = .idle ∧ ∃ m w, nextIs s m 64 0x08#8 (.write w)) ∨ resetNext s ∨
    (∃ m w, nextIs s m 64 0x18#8 (.write w) ∧ w.getLsbD 1 = false ∧ w.getLsbD 0 = false)

/-- R84: a host write to OPA, OPB or OPC while a command is in flight leaves the command's outcome as it was; its
operands are those that stood at the accepting write. -/
def Obligations.OperandWriteKeepsCommandInFlight : Prop :=
  (∀ (i : Instr) (s t : State) (m : Nat) (off : Offset) (w : Word), isCommand i = true → s.fsm = .busy →
    off = 0x20#8 ∨ off = 0x28#8 ∨ off = 0x30#8 → nextIs s m 64 off (.write w) → step s = .next t →
    ∃ u v : State, exec i s = .next u ∧ exec i t = .next v ∧ sameOutcome u v) ∧
  (∀ (s t : State) (m : Nat) (w : Word), s.fsm = .idle → nextIs s m 64 0x08#8 (.write w) → step s = .next t →
    t.latA = s.opa ∧ t.latB = s.opb ∧ t.latC = s.opc)

/-- The frame in bytes of the window (R42): a command changes only bytes of STATUS and RES0 to RES2, ACK and CLROVR only
bytes of STATUS, EI and DI only bytes of CTRL. -/
def Obligations.WindowByteFrame : Prop :=
  ∀ (i : Instr) (s t : State) (off : Offset), exec i s = .next t →
    (isCommand i = true → off.toNat / 8 ∉ [2, 8, 9, 10] → t.windowByte off = s.windowByte off) ∧
    (∀ w, i = .ack w ∨ i = .clrovr w → off.toNat / 8 ≠ 2 → t.windowByte off = s.windowByte off) ∧
    (∀ w, i = .ei w ∨ i = .di w → i.wellFormed = true → off.toNat / 8 ≠ 3 →
      t.windowByte off = s.windowByte off)

/-- R42: byte i of a register sits at its offset plus i and holds its bits [8i+7:8i]. -/
def Obligations.ByteLanesAreLittleEndian : Prop :=
  ∀ (s : State) (r : Reg) (i : Nat), i < 8 →
    (s.windowByte (r.offset + BitVec.ofNat 8 i)).toNat = (s.readReg r).toNat / 2 ^ (8 * i) % 256

/-- R38: the window is the 0x100 bytes at BASE, a multiple of 0x100, and an address in it has offset A - BASE. -/
def Obligations.WindowAddresses : Prop :=
  Config.base % 0x100 = 0 ∧
  ∀ (addr : Nat) (off : Offset),
    offsetOfAddress addr = some off ↔ Config.base ≤ addr ∧ addr ≤ Config.base + 0xFF ∧ addr = Config.base + off.toNat

/-! ### Invariant and liveness -/

/-- The invariant of the block's registers holds after reset. -/
def Obligations.InvHoldsAtReset : Prop := State.reset.Inv

/-- Every step keeps the invariant of the block's registers: DONE implies not BUSY (R18), ERR is 1 exactly with a nonzero
ERRCODE, the error codes are a pair of R106, an error leaves no result (R74), no error shows while BUSY (R71), and CMD
and its latch agree while BUSY (R16, R31). -/
def Obligations.InvKeptByEveryStep : Prop := ∀ s t : State, s.Inv → step s = .next t → t.Inv

/-- R85, R134 with the model's latency (log 3): a command in flight completes, on the operands it was accepted with,
within as many steps as its latency has left, unless a reset comes first. -/
def Obligations.CommandInFlightCompletes : Prop :=
  ∀ s : State, s.fsm = .busy → (∀ op ∈ s.host.take s.countdown, op.resets = false) →
    ∃ (k : Nat) (t u : State), k ≤ s.countdown ∧ Host.Core.run core k s = .next t ∧ t.engineTurn = true ∧
      t.latCmd = s.latCmd ∧ t.latA = s.latA ∧ t.latB = s.latB ∧ t.latC = s.latC ∧
      step t = exec (decodeCommand s.latCmd) t ∧ step t = .next u ∧ u.done = true ∧ u.fsm = .idle

/-- A whole call (R53, R71, R73, R86, R134): a host that writes the command word 0x01 to an IDLE block gets the greatest
common divisor of OPA and OPB as they stand, unless a reset comes first. The bound on the steps is the model's own
latency (log 3). -/
def Obligations.GcdCallReturnsGcd : Prop :=
  ∀ (s : State) (m : Nat), s.fsm = .idle → nextIs s m 64 0x08#8 (.write 1#64) →
    (∀ op ∈ s.host.tail.take s.nextLatency, op.resets = false) →
    s.opa.toInt ≠ minInt → s.opb.toInt.natAbs ≤ s.opa.toInt.natAbs → s.opa.toInt ≠ 0 →
    ∃ (k : Nat) (u : State), k ≤ s.nextLatency + 2 ∧ Host.Core.run core k s = .next u ∧ u.done = true ∧
      u.fsm = .idle ∧ u.err = false ∧ u.res0.toInt = Int.gcd s.opa.toInt s.opb.toInt ∧ u.res1 = 0#64 ∧
      u.res2 = 0#64 ∧ u.cmd = 1#64

/-! ### Host notation and launch -/

/-- R65 for the commands: from IDLE the expansion writes the operands it has, leaves the other registers as they stand,
and its CMD write puts the named command in flight on them; WAIT comes next. -/
def Obligations.CommandExpansionsIssueTheirCommand : Prop :=
  ∀ (s : State) (m : Nat) (rest : List HostOp) (x y z : Int) (r : BitVec 8), s.fsm = .idle →
    calls s m rest (.gcd x y) 3 .gcd (BitVec.ofInt 64 x) (BitVec.ofInt 64 y) s.opc ∧
    calls s m rest (.xgcd x y) 3 .xgcd (BitVec.ofInt 64 x) (BitVec.ofInt 64 y) s.opc ∧
    calls s m rest (.modpow x y z) 4 .modpow (BitVec.ofInt 64 x) (BitVec.ofInt 64 y) (BitVec.ofInt 64 z) ∧
    calls s m rest (.modinv x y) 3 .modinv (BitVec.ofInt 64 x) (BitVec.ofInt 64 y) s.opc ∧
    calls s m rest (.primeTd x) 2 .primeTd (BitVec.ofInt 64 x) s.opb s.opc ∧
    calls s m rest (.primeFermat x r) 2 (.primeFermat r) (BitVec.ofInt 64 x) s.opb s.opc ∧
    calls s m rest (.primeFermatDefault x) 2 (.primeFermat 0#8) (BitVec.ofInt 64 x) s.opb s.opc ∧
    calls s m rest (.fermatWitness x y) 3 .fermatWitness (BitVec.ofInt 64 x) (BitVec.ofInt 64 y) s.opc

/-- R65 for the control operations, in either engine state: ACK clears DONE alone, CLROVR clears OVR alone, EI sets IE, DI
clears IE, and SRST resets the block. -/
def Obligations.ControlExpansionsAct : Prop :=
  ∀ (s : State) (m : Nat) (rest : List HostOp), s.fsm = .idle ∨ 0 < s.countdown →
    let sends (p : Pseudo) : State := { s with host := expand m p ++ rest }
    let sent : State :=
      { s with host := rest, countdown := s.countdown - 1, responses := (m, .written) :: s.responses }
    step (sends .ack) = .next { sent with done := false } ∧
    step (sends .clrovr) = .next { sent with ovr := false } ∧
    step (sends .ei) = .next { sent with ie := true } ∧
    step (sends .di) = .next { sent with ie := false } ∧
    ∃ t : State, step (sends .srst) = .next t ∧ atReset t ∧ t.faults = s.faults ∧ t.host = rest

/-- R126: what is reached from the reset state by admitted transactions meets the invariant of the block's registers and
has an empty fault set, whatever the latches held at reset (log 2) and whatever the hosts send (log 12). -/
def Obligations.ReachedStatesMeetInv : Prop := ∀ s : State, Reached s → s.Inv ∧ s.faults = []
end

