-- ==== Sys2Proof/Laws/Arith.lean ====
section
/-! SUPPORT. One spec lemma per arithmetic loop: what the loop's value is, for every start. Proofs about the commands
cite these and unfold no loop. -/

namespace Sys2Proof.Machine

/-! ### Euclid (R86, R88) -/

theorem euclid_eq_gcd : ∀ fuel x y : Nat, y < fuel → euclid fuel x y = Nat.gcd x y
  | 0, _, _, h => absurd h (Nat.not_lt_zero _)
  | fuel + 1, x, y, h => by
    unfold euclid
    split
    · next hy => simp [hy]
    · next hy =>
      have hlt : x % y < y := Nat.mod_lt _ (Nat.pos_of_ne_zero hy)
      rw [euclid_eq_gcd fuel y (x % y) (by omega), Nat.gcd_comm x y, Nat.gcd_rec y x, Nat.gcd_comm]

/-- The pulverizer's x is Euclid's. -/
theorem pulverizer_gcd : ∀ (fuel x y : Nat) (s t : Int × Int), y < fuel →
    (pulverizer fuel x y s t).1 = Nat.gcd x y
  | 0, _, _, _, _, h => absurd h (Nat.not_lt_zero _)
  | fuel + 1, x, y, s, t, h => by
    unfold pulverizer
    split
    · next hy => simp [hy]
    · next hy =>
      have hlt : x % y < y := Nat.mod_lt _ (Nat.pos_of_ne_zero hy)
      simp only
      rw [pulverizer_gcd fuel y (x % y) _ _ (by omega), Nat.gcd_comm x y, Nat.gcd_rec y x, Nat.gcd_comm]

/-- The exact quotient of R88 is the floor quotient. -/
theorem exact_quotient (x y : Nat) : (x - x % y) / y = x / y := by
  rcases Nat.eq_zero_or_pos y with rfl | hy
  · simp
  · have h := Nat.div_add_mod x y
    have : x - x % y = y * (x / y) := by omega
    rw [this, Nat.mul_div_cancel_left _ hy]

/-- A linear relation that both pairs keep to is kept by the loop (R89). -/
theorem pulverizer_bezout (p q : Int) : ∀ (fuel x y : Nat) (s t : Int × Int),
    s.1 * p + s.2 * q = x → t.1 * p + t.2 * q = y →
    (pulverizer fuel x y s t).2.1 * p + (pulverizer fuel x y s t).2.2 * q = (pulverizer fuel x y s t).1
  | 0, _, _, _, _, hs, _ => hs
  | fuel + 1, x, y, s, t, hs, ht => by
    unfold pulverizer
    split
    · exact hs
    · refine pulverizer_bezout p q fuel y (x % y) t _ ht ?_
      rw [exact_quotient]
      have h : ((x % y : Nat) : Int) = x - y * (x / y : Nat) := by
        have := Nat.div_add_mod x y
        zify at this ⊢
        linarith
      rw [h, ← hs, ← ht]
      ring

/-- The pairs of R88 have opposite signs, so a coefficient's size grows by the quotient times the other's. -/
theorem natAbs_sub_mul {a b : Int} (q : Nat) (h : a * b ≤ 0) : (a - b * q).natAbs = a.natAbs + b.natAbs * q := by
  have hq : (0 : Int) ≤ q := Int.natCast_nonneg q
  rcases lt_trichotomy b 0 with hb | rfl | hb
  · have ha : 0 ≤ a := by nlinarith
    have hm : b * q ≤ 0 := mul_nonpos_of_nonpos_of_nonneg hb.le hq
    zify
    rw [abs_of_nonneg (by linarith : 0 ≤ a - b * q), abs_of_nonneg ha, abs_of_neg hb]
    ring
  · simp
  · have ha : a ≤ 0 := by nlinarith
    have hm : 0 ≤ b * q := mul_nonneg hb.le hq
    zify
    rw [abs_of_nonpos (by linarith : a - b * q ≤ 0), abs_of_nonpos ha, abs_of_pos hb]
    ring

/-- The size of a coefficient (R90), `f` being the first or the second of a pair: `|f s|*y + |f t|*x = n` is kept by
each loop step, and it bounds the coefficient that the loop ends with. -/
theorem pulverizer_bound (n : Nat) (f : Int × Int → Int)
    (hf : ∀ (u v : Int × Int) (k : Int), f (u.1 - v.1 * k, u.2 - v.2 * k) = f u - f v * k) :
    ∀ (fuel x y : Nat) (s t : Int × Int), y < fuel → 0 < x → f s * f t ≤ 0 →
    (f s).natAbs * y + (f t).natAbs * x = n → (f s).natAbs * Nat.gcd x y ≤ n →
    (f (pulverizer fuel x y s t).2).natAbs * Nat.gcd x y ≤ n
  | 0, _, _, _, _, h, _, _, _, _ => absurd h (Nat.not_lt_zero _)
  | fuel + 1, x, y, s, t, hlt, hx, hsign, hn, hb => by
    unfold pulverizer
    split
    · exact hb
    · next hy =>
      have hpos : 0 < y := Nat.pos_of_ne_zero hy
      have hmod : x % y < y := Nat.mod_lt _ hpos
      have hgcd : Nat.gcd x y = Nat.gcd y (x % y) := by
        rw [Nat.gcd_comm x y, Nat.gcd_rec y x, Nat.gcd_comm]
      simp only
      rw [exact_quotient, hgcd]
      refine pulverizer_bound n f hf fuel y (x % y) t _ (by omega) hpos ?_ ?_ ?_
      · rw [hf]
        have hq : (0 : Int) ≤ ((x / y : Nat) : Int) := Int.natCast_nonneg _
        nlinarith [mul_nonneg (mul_self_nonneg (f t)) hq]
      · rw [hf, natAbs_sub_mul _ hsign, ← hn]
        nth_rewrite 3 [← Nat.div_add_mod x y]
        ring
      · rw [← hgcd]
        calc (f t).natAbs * Nat.gcd x y ≤ (f t).natAbs * x := Nat.mul_le_mul_left _ (Nat.gcd_le_left _ hx)
          _ ≤ n := by omega

/-! ### The int64 range (R5) and the checks of GCD and XGCD (R109) -/

theorem inInt64_iff (i : Int) : inInt64 i = true ↔ -9223372036854775808 ≤ i ∧ i ≤ 9223372036854775807 := by
  unfold inInt64
  rw [Bool.and_eq_true, decide_eq_true_iff, decide_eq_true_iff]
  exact Iff.rfl

/-- The value of a word is in the int64 range (R8). -/
theorem inInt64_int64 (w : Word) : inInt64 (int64 w) = true := by
  rw [inInt64_iff, int64]
  have h1 := BitVec.le_toInt w
  have h2 := BitVec.toInt_lt (x := w)
  norm_num at h1 h2
  omega

/-- `word64` and `int64` are inverse on the int64 range (R8). -/
theorem int64_word64 {i : Int} (h : inInt64 i = true) : int64 (word64 i) = i := by
  rw [inInt64_iff] at h
  rw [int64, word64, BitVec.toInt_ofInt, Int.bmod_eq_of_le] <;> norm_num <;> omega

theorem euclidError_none {a b : Int} :
    euclidError a b = none ↔
      a ≠ int64Min ∧ b ≠ int64Min ∧ ¬ (a = 0 ∧ b = 0) ∧ b.natAbs ≤ a.natAbs := by
  unfold euclidError
  split_ifs <;> simp only [false_iff, true_iff] <;> omega

/-- XGCD where its checks pass (R88 to R90): the fixed-up coefficients of the pulverizer, which satisfy Bezout's
equation and stay within the bound of R90, so that RESULT_RANGE is never raised. -/
theorem xgcdResult_ok {a b : Int} (ha : inInt64 a = true) (h : euclidError a b = none) :
    ∃ s0 s1 : Int,
      pulverizer (b.natAbs + 1) a.natAbs b.natAbs (1, 0) (0, 1) = (Int.gcd a b, s0, s1) ∧
      xgcdResult a b = .ok (signFix a s0) (signFix b s1) (Int.gcd a b) ∧
      signFix a s0 * a + signFix b s1 * b = Int.gcd a b ∧
      (signFix a s0).natAbs ≤ max 1 (b.natAbs / Int.gcd a b) ∧
      (signFix b s1).natAbs ≤ a.natAbs / Int.gcd a b := by
  obtain ⟨h1, h2, h3, h4⟩ := euclidError_none.mp h
  have hapos : 0 < a.natAbs := by omega
  have hgpos : 0 < Int.gcd a b := Nat.gcd_pos_of_pos_left _ hapos
  have hg := pulverizer_gcd (b.natAbs + 1) a.natAbs b.natAbs (1, 0) (0, 1) (Nat.lt_succ_self _)
  have hbez := pulverizer_bezout a.natAbs b.natAbs (b.natAbs + 1) a.natAbs b.natAbs (1, 0) (0, 1) (by simp) (by simp)
  have hsnd := pulverizer_bound a.natAbs Prod.snd (fun _ _ _ => rfl) (b.natAbs + 1) a.natAbs b.natAbs (1, 0) (0, 1)
    (Nat.lt_succ_self _) hapos (by simp) (by simp) (by simp)
  have hfst : (pulverizer (b.natAbs + 1) a.natAbs b.natAbs (1, 0) (0, 1)).2.1.natAbs
      ≤ max 1 (b.natAbs / Int.gcd a b) := by
    rcases Nat.eq_zero_or_pos b.natAbs with hb | hb
    · simp [hb, pulverizer]
    · have := pulverizer_bound b.natAbs Prod.fst (fun _ _ _ => rfl) (b.natAbs + 1) a.natAbs b.natAbs (1, 0) (0, 1)
        (Nat.lt_succ_self _) hapos (by simp) (by simp) (by simpa using Nat.gcd_le_right _ hb)
      exact le_max_of_le_right ((Nat.le_div_iff_mul_le hgpos).mpr this)
  rcases hp : pulverizer (b.natAbs + 1) a.natAbs b.natAbs (1, 0) (0, 1) with ⟨g, s0, s1⟩
  simp only [hp] at hg hbez hsnd hfst
  have habs : ∀ x c : Int, (signFix x c).natAbs = c.natAbs := by
    intro x c; unfold signFix; split_ifs <;> simp
  have hmul : ∀ x c : Int, signFix x c * x = c * x.natAbs := by
    intro x c; unfold signFix; split_ifs
    · rw [Int.ofNat_natAbs_of_nonpos (by omega)]; ring
    · rw [Int.natAbs_of_nonneg (by omega)]
  have hs1 : s1.natAbs ≤ a.natAbs / Int.gcd a b := (Nat.le_div_iff_mul_le hgpos).mpr hsnd
  have hlim : a.natAbs ≤ 9223372036854775807 := by
    rw [inInt64_iff] at ha
    rw [int64Min] at h1
    omega
  have hr0 : inInt64 (signFix a s0) = true := by
    have := habs a s0
    have h5 : b.natAbs / Int.gcd a b ≤ b.natAbs := Nat.div_le_self _ _
    rw [inInt64_iff]
    omega
  have hr1 : inInt64 (signFix b s1) = true := by
    have := habs b s1
    have h5 : a.natAbs / Int.gcd a b ≤ a.natAbs := Nat.div_le_self _ _
    rw [inInt64_iff]
    omega
  have hgg : g = Int.gcd a b := hg
  refine ⟨s0, s1, by rw [hgg], ?_, ?_, by rw [habs]; exact hfst, by rw [habs]; exact hs1⟩
  · simp only [xgcdResult, h, hp, hr0, hr1, Bool.and_self, if_true, hgg]
  · rw [hmul, hmul, hbez, hgg]

/-! ### Modular powers (R92, R93) -/

theorem repeatMultiply_eq (b m : Nat) : ∀ e r : Nat, r < m → repeatMultiply e b r m = r * b ^ e % m
  | 0, r, h => by simp [repeatMultiply, Nat.mod_eq_of_lt h]
  | e + 1, r, h => by
    rw [repeatMultiply, repeatMultiply_eq b m e _ (Nat.mod_lt _ (by omega)), Nat.mod_mul_mod, pow_succ]
    ring_nf

theorem squareMultiply_eq (m : Nat) : ∀ bits b e r : Nat, r < m → e < 2 ^ bits →
    squareMultiply bits b e r m = r * b ^ e % m
  | 0, b, e, r, h, he => by
    have : e = 0 := by omega
    simp [squareMultiply, this, Nat.mod_eq_of_lt h]
  | bits + 1, b, e, r, h, he => by
    have hm : 0 < m := by omega
    have hr : (if e % 2 = 1 then r * b % m else r) < m := by split_ifs; exacts [Nat.mod_lt _ hm, h]
    rw [squareMultiply, squareMultiply_eq m bits _ _ _ hr (by rw [pow_succ] at he; omega)]
    have hpow : (b * b % m) ^ (e / 2) ≡ b ^ (2 * (e / 2)) [MOD m] := by
      rw [pow_mul, pow_two]
      exact (Nat.mod_modEq _ _).pow _
    have he2 := Nat.div_add_mod e 2
    show _ ≡ _ [MOD m]
    split_ifs with ho
    · calc r * b % m * (b * b % m) ^ (e / 2) ≡ r * b * b ^ (2 * (e / 2)) [MOD m] := (Nat.mod_modEq _ _).mul hpow
        _ = r * b ^ e := by rw [mul_assoc, ← pow_succ', show 2 * (e / 2) + 1 = e by omega]
    · have : 2 * (e / 2) = e := by omega
      rw [this] at hpow
      exact (Nat.ModEq.refl r).mul hpow

/-- R93: MODPOW's value is `floor_mod(base^e, m)`. -/
theorem powMod_eq (k : Int) {e m : Int} (hm : 0 < m) (he : e < 2 ^ 64) : powMod k e m = k ^ e.toNat % m := by
  obtain ⟨n, rfl⟩ := Int.eq_ofNat_of_zero_le hm.le
  have hn : 0 < n := by omega
  have hb : ((floorMod k n).toNat : Int) = k % n := Int.toNat_of_nonneg (Int.emod_nonneg _ (by omega))
  have h1 : (floorMod 1 n).toNat = 1 % n := by
    show (((1 : Nat) : Int) % (n : Int)).toNat = _
    rw [← Int.natCast_mod, Int.toNat_natCast]
  have he' : e.toNat < 2 ^ 64 := by omega
  rw [powMod, Int.toNat_natCast, squareMultiply_eq n 64 _ _ _ (h1 ▸ Nat.mod_lt _ hn) he', h1]
  push_cast
  rw [hb, Int.mul_emod, Int.emod_emod_of_dvd 1 (dvd_refl _), ← Int.mul_emod, one_mul]
  exact (Int.mod_modEq k n).pow _

theorem powMod_range (k : Int) {e m : Int} (hm : 0 < m) (he : e < 2 ^ 64) : 0 ≤ powMod k e m ∧ powMod k e m < m := by
  rw [powMod_eq k hm he]
  exact ⟨Int.emod_nonneg _ (by omega), Int.emod_lt_of_pos _ hm⟩

/-! ### Primality (R98, R100) -/

theorem isqrtDigits_spec (n : Nat) : ∀ k r : Nat, r * r ≤ n → n < (r + 2 ^ k) * (r + 2 ^ k) →
    isqrtDigits k r n * isqrtDigits k r n ≤ n ∧ n < (isqrtDigits k r n + 1) * (isqrtDigits k r n + 1)
  | 0, r, h, h' => ⟨h, by simpa [isqrtDigits] using h'⟩
  | k + 1, r, h, h' => by
    unfold isqrtDigits
    split
    · next hle => exact isqrtDigits_spec n k _ hle (by rw [pow_succ] at h'; convert h' using 2 <;> ring)
    · next hle => exact isqrtDigits_spec n k r h (by omega)

/-- R9: `isqrt n` is the greatest `r` with `r*r ≤ n`. -/
theorem isqrt_spec {n : Nat} (h : n < 2 ^ 64) : isqrt n * isqrt n ≤ n ∧ n < (isqrt n + 1) * (isqrt n + 1) :=
  isqrtDigits_spec n 32 0 (by omega) (by omega)

/-- The trial divisor found is the first that divides. -/
theorem trialDivide_some {n k : Nat} : ∀ count d : Nat, trialDivide count d n = some k →
    d ≤ k ∧ k < d + count ∧ k ∣ n ∧ ∀ j, d ≤ j → j < k → ¬ j ∣ n
  | 0, _, h => by simp [trialDivide] at h
  | count + 1, d, h => by
    unfold trialDivide at h
    split at h
    · next hd =>
      obtain rfl := Option.some.inj h
      exact ⟨le_rfl, by omega, Nat.dvd_of_mod_eq_zero hd, fun j h1 h2 => absurd h2 (by omega)⟩
    · next hd =>
      obtain ⟨h1, h2, h3, h4⟩ := trialDivide_some count (d + 1) h
      refine ⟨by omega, by omega, h3, fun j hj hk => ?_⟩
      rcases eq_or_lt_of_le hj with rfl | hlt
      · exact fun hdvd => hd (Nat.mod_eq_zero_of_dvd hdvd)
      · exact h4 j hlt hk

theorem trialDivide_none {n : Nat} : ∀ count d : Nat, trialDivide count d n = none →
    ∀ j, d ≤ j → j < d + count → ¬ j ∣ n
  | 0, _, _ => fun j h1 h2 => absurd h2 (by omega)
  | count + 1, d, h => by
    unfold trialDivide at h
    split at h
    · simp at h
    · next hd =>
      intro j hj hlt
      rcases eq_or_lt_of_le hj with rfl | h2
      · exact fun hdvd => hd (Nat.mod_eq_zero_of_dvd hdvd)
      · exact trialDivide_none count (d + 1) h j h2 (by omega)

/-- Every draw is a witness R101 admits. -/
theorem admissibleDraw_range {n : Int} (h : 2 ≤ n) (v : Int) :
    1 ≤ admissibleDraw n v ∧ admissibleDraw n v ≤ n - 1 := by
  have h1 := Int.emod_nonneg (v - 1) (show n - 1 ≠ 0 by omega)
  have h2 := Int.emod_lt_of_pos (v - 1) (show 0 < n - 1 by omega)
  unfold admissibleDraw
  omega

/-- A witness that R101 admits is drawn as it is. -/
theorem admissibleDraw_of_range {n v : Int} (h1 : 1 ≤ v) (h2 : v ≤ n - 1) : admissibleDraw n v = v := by
  unfold admissibleDraw
  rw [Int.emod_eq_of_lt (by omega) (by omega)]
  omega

theorem draw_range (s : State) {n : Int} (h : 2 ≤ n) (i : Nat) : 1 ≤ s.draw n i ∧ s.draw n i ≤ n - 1 := by
  unfold State.draw
  split <;> exact admissibleDraw_range h _

theorem draw_of_tape {s : State} {n v : Int} {i : Nat} (h : s.draws[i - 1]? = some v) (h1 : 1 ≤ v) (h2 : v ≤ n - 1) :
    s.draw n i = v := by
  unfold State.draw
  simp only [h, admissibleDraw_of_range h1 h2]

/-- All rounds pass, or the round given is the first that fails (R100). -/
theorem fermatRounds_none {n : Int} {draws : Nat → Int} : ∀ left i : Nat,
    fermatRounds n draws left i = none ↔ ∀ j, i ≤ j → j < i + left → powMod (draws j) (n - 1) n = 1
  | 0, i => by simp [fermatRounds]; omega
  | left + 1, i => by
    unfold fermatRounds
    split
    · next h => simpa using ⟨i, le_rfl, by omega, h⟩
    · next h =>
      rw [fermatRounds_none left (i + 1)]
      refine ⟨fun hh j h1 h2 => ?_, fun hh j h1 h2 => hh j (by omega) (by omega)⟩
      rcases eq_or_lt_of_le h1 with rfl | h3
      · exact not_not.mp h
      · exact hh j h3 (by omega)

theorem fermatRounds_some {n k : Int} {draws : Nat → Int} {m : Nat} : ∀ left i : Nat,
    fermatRounds n draws left i = some (k, m) ↔
      i ≤ m ∧ m < i + left ∧ k = draws m ∧ powMod (draws m) (n - 1) n ≠ 1 ∧
      ∀ j, i ≤ j → j < m → powMod (draws j) (n - 1) n = 1
  | 0, i => by simp [fermatRounds]; omega
  | left + 1, i => by
    unfold fermatRounds
    split
    · next h =>
      simp only [Option.some.injEq, Prod.mk.injEq]
      constructor
      · rintro ⟨rfl, rfl⟩
        exact ⟨le_rfl, by omega, rfl, h, fun j h1 h2 => absurd h2 (by omega)⟩
      · rintro ⟨h1, h2, h3, h4, h5⟩
        rcases eq_or_lt_of_le h1 with rfl | h6
        · exact ⟨h3.symm, rfl⟩
        · exact absurd (h5 i le_rfl h6) h
    · next h =>
      rw [fermatRounds_some left (i + 1)]
      constructor
      · rintro ⟨h1, h2, h3, h4, h5⟩
        refine ⟨by omega, by omega, h3, h4, fun j hj hm => ?_⟩
        rcases eq_or_lt_of_le hj with rfl | h6
        · exact not_not.mp h
        · exact h5 j h6 hm
      · rintro ⟨h1, h2, h3, h4, h5⟩
        rcases eq_or_lt_of_le h1 with rfl | h6
        · exact absurd (not_not.mp h) h4
        · exact ⟨h6, by omega, h3, h4, fun j hj hm => h5 j (by omega) hm⟩

end Sys2Proof.Machine
end

