-- ==== Sys2Proof/Laws/Decode.lean ====
section
/-! SUPPORT. The laws of the byte lanes (20_memory.md R42), of the fields of a command word (30_encoding.md R56), and of
where the decoder and the encoder put a word. -/

namespace Sys2Proof

/-- Concatenation (R7) as a number. -/
theorem toNat_append_add {m n : Nat} (x : BitVec m) (y : BitVec n) : (x ++ y).toNat = x.toNat * 2 ^ n + y.toNat := by
  rw [BitVec.toNat_append, ← Nat.shiftLeft_add_eq_or_of_lt y.isLt, Nat.shiftLeft_eq]

/-- The eight lanes of a word put together again are the word (R42). -/
theorem wordOfBytes_byteLane (w : Word) :
    wordOfBytes (byteLane w 0) (byteLane w 1) (byteLane w 2) (byteLane w 3) (byteLane w 4) (byteLane w 5)
      (byteLane w 6) (byteLane w 7) = w := by
  apply BitVec.eq_of_toNat_eq
  have := w.isLt
  simp only [wordOfBytes, byteLane, toNat_append_add, BitVec.extractLsb'_toNat, Nat.shiftRight_eq_div_pow]
  omega

/-- What the decoder reads from a word's eight bytes and any bytes after them. -/
theorem decodeBytes_bytesOfWord (off : Offset) (w : Word) (rest : List Byte) :
    decodeBytes off (bytesOfWord w ++ rest) = (decodeWrite off w).map (fun i => (i, rest)) := by
  show decodeBytes off (byteLane w 0 :: byteLane w 1 :: byteLane w 2 :: byteLane w 3 :: byteLane w 4 ::
    byteLane w 5 :: byteLane w 6 :: byteLane w 7 :: rest) = _
  rw [decodeBytes, wordOfBytes_byteLane]
  cases decodeWrite off w <;> rfl

/-! ### The fields of a command word as numbers (R56) -/

theorem opcodeOf_toNat (w : Word) : (opcodeOf w).toNat = w.toNat % 256 := by
  simp [opcodeOf]

theorem roundsOf_toNat (w : Word) : (roundsOf w).toNat = w.toNat / 256 % 256 := by
  simp [roundsOf, Nat.shiftRight_eq_div_pow]

theorem rsvdOf_toNat (w : Word) : (rsvdOf w).toNat = w.toNat / 65536 := by
  have := w.isLt
  simp only [rsvdOf, BitVec.extractLsb'_toNat, Nat.shiftRight_eq_div_pow]
  omega

/-- A PRIME_FERMAT word as a number (R57, R59). -/
theorem encodeWord_primeFermat_toNat (r : BitVec 8) : (encodeWord (.primeFermat r)).toNat = r.toNat * 256 + 6 := by
  simp only [encodeWord, toNat_append_add, BitVec.toNat_ofNat]
  omega

end Sys2Proof
end

