-- ==== Sys2Proof/Laws/State.lean ====
section
/-! SUPPORT. One lemma per field per update of State, true by rfl, so that no later proof unfolds a record update. -/

namespace Sys2Proof.Machine

variable (s : State)

/-! ### accept -/

@[simp] theorem State.accept_cmd (w : Word) : (s.accept w).cmd = w := rfl
@[simp] theorem State.accept_done (w : Word) : (s.accept w).done = false := rfl
@[simp] theorem State.accept_err (w : Word) : (s.accept w).err = false := rfl
@[simp] theorem State.accept_ovr (w : Word) : (s.accept w).ovr = s.ovr := rfl
@[simp] theorem State.accept_errcode (w : Word) : (s.accept w).errcode = 0#4 := rfl
@[simp] theorem State.accept_errdetail (w : Word) : (s.accept w).errdetail = 0#8 := rfl
@[simp] theorem State.accept_ie (w : Word) : (s.accept w).ie = s.ie := rfl
@[simp] theorem State.accept_opa (w : Word) : (s.accept w).opa = s.opa := rfl
@[simp] theorem State.accept_opb (w : Word) : (s.accept w).opb = s.opb := rfl
@[simp] theorem State.accept_opc (w : Word) : (s.accept w).opc = s.opc := rfl
@[simp] theorem State.accept_res0 (w : Word) : (s.accept w).res0 = s.res0 := rfl
@[simp] theorem State.accept_res1 (w : Word) : (s.accept w).res1 = s.res1 := rfl
@[simp] theorem State.accept_res2 (w : Word) : (s.accept w).res2 = s.res2 := rfl
@[simp] theorem State.accept_fsm (w : Word) : (s.accept w).fsm = .busy := rfl
@[simp] theorem State.accept_latCmd (w : Word) : (s.accept w).latCmd = w := rfl
@[simp] theorem State.accept_latA (w : Word) : (s.accept w).latA = s.opa := rfl
@[simp] theorem State.accept_latB (w : Word) : (s.accept w).latB = s.opb := rfl
@[simp] theorem State.accept_latC (w : Word) : (s.accept w).latC = s.opc := rfl
@[simp] theorem State.accept_faults (w : Word) : (s.accept w).faults = s.faults := rfl
@[simp] theorem State.accept_host (w : Word) : (s.accept w).host = s.host := rfl
@[simp] theorem State.accept_responses (w : Word) : (s.accept w).responses = s.responses := rfl
@[simp] theorem State.accept_countdown (w : Word) : (s.accept w).countdown = s.nextLatency := rfl
@[simp] theorem State.accept_latencies (w : Word) : (s.accept w).latencies = s.latencies.tail := rfl
@[simp] theorem State.accept_draws (w : Word) : (s.accept w).draws = s.draws := rfl
@[simp] theorem State.accept_freeCount (w : Word) : (s.accept w).freeCount = s.freeCount + 1 := rfl

/-! ### drop -/

@[simp] theorem State.drop_cmd : (s.drop).cmd = s.cmd := rfl
@[simp] theorem State.drop_done : (s.drop).done = s.done := rfl
@[simp] theorem State.drop_err : (s.drop).err = s.err := rfl
@[simp] theorem State.drop_ovr : (s.drop).ovr = true := rfl
@[simp] theorem State.drop_errcode : (s.drop).errcode = s.errcode := rfl
@[simp] theorem State.drop_errdetail : (s.drop).errdetail = s.errdetail := rfl
@[simp] theorem State.drop_ie : (s.drop).ie = s.ie := rfl
@[simp] theorem State.drop_opa : (s.drop).opa = s.opa := rfl
@[simp] theorem State.drop_opb : (s.drop).opb = s.opb := rfl
@[simp] theorem State.drop_opc : (s.drop).opc = s.opc := rfl
@[simp] theorem State.drop_res0 : (s.drop).res0 = s.res0 := rfl
@[simp] theorem State.drop_res1 : (s.drop).res1 = s.res1 := rfl
@[simp] theorem State.drop_res2 : (s.drop).res2 = s.res2 := rfl
@[simp] theorem State.drop_fsm : (s.drop).fsm = s.fsm := rfl
@[simp] theorem State.drop_latCmd : (s.drop).latCmd = s.latCmd := rfl
@[simp] theorem State.drop_latA : (s.drop).latA = s.latA := rfl
@[simp] theorem State.drop_latB : (s.drop).latB = s.latB := rfl
@[simp] theorem State.drop_latC : (s.drop).latC = s.latC := rfl
@[simp] theorem State.drop_faults : (s.drop).faults = s.faults := rfl
@[simp] theorem State.drop_host : (s.drop).host = s.host := rfl
@[simp] theorem State.drop_responses : (s.drop).responses = s.responses := rfl
@[simp] theorem State.drop_countdown : (s.drop).countdown = s.countdown := rfl
@[simp] theorem State.drop_latencies : (s.drop).latencies = s.latencies := rfl
@[simp] theorem State.drop_draws : (s.drop).draws = s.draws := rfl
@[simp] theorem State.drop_freeCount : (s.drop).freeCount = s.freeCount := rfl

/-! ### writeStatus -/

@[simp] theorem State.writeStatus_cmd (w : Word) : (s.writeStatus w).cmd = s.cmd := rfl
@[simp] theorem State.writeStatus_done (w : Word) : (s.writeStatus w).done = (s.done && !w.getLsbD 1) := rfl
@[simp] theorem State.writeStatus_err (w : Word) : (s.writeStatus w).err = s.err := rfl
@[simp] theorem State.writeStatus_ovr (w : Word) : (s.writeStatus w).ovr = (s.ovr && !w.getLsbD 3) := rfl
@[simp] theorem State.writeStatus_errcode (w : Word) : (s.writeStatus w).errcode = s.errcode := rfl
@[simp] theorem State.writeStatus_errdetail (w : Word) : (s.writeStatus w).errdetail = s.errdetail := rfl
@[simp] theorem State.writeStatus_ie (w : Word) : (s.writeStatus w).ie = s.ie := rfl
@[simp] theorem State.writeStatus_opa (w : Word) : (s.writeStatus w).opa = s.opa := rfl
@[simp] theorem State.writeStatus_opb (w : Word) : (s.writeStatus w).opb = s.opb := rfl
@[simp] theorem State.writeStatus_opc (w : Word) : (s.writeStatus w).opc = s.opc := rfl
@[simp] theorem State.writeStatus_res0 (w : Word) : (s.writeStatus w).res0 = s.res0 := rfl
@[simp] theorem State.writeStatus_res1 (w : Word) : (s.writeStatus w).res1 = s.res1 := rfl
@[simp] theorem State.writeStatus_res2 (w : Word) : (s.writeStatus w).res2 = s.res2 := rfl
@[simp] theorem State.writeStatus_fsm (w : Word) : (s.writeStatus w).fsm = s.fsm := rfl
@[simp] theorem State.writeStatus_latCmd (w : Word) : (s.writeStatus w).latCmd = s.latCmd := rfl
@[simp] theorem State.writeStatus_latA (w : Word) : (s.writeStatus w).latA = s.latA := rfl
@[simp] theorem State.writeStatus_latB (w : Word) : (s.writeStatus w).latB = s.latB := rfl
@[simp] theorem State.writeStatus_latC (w : Word) : (s.writeStatus w).latC = s.latC := rfl
@[simp] theorem State.writeStatus_faults (w : Word) : (s.writeStatus w).faults = s.faults := rfl
@[simp] theorem State.writeStatus_host (w : Word) : (s.writeStatus w).host = s.host := rfl
@[simp] theorem State.writeStatus_responses (w : Word) : (s.writeStatus w).responses = s.responses := rfl
@[simp] theorem State.writeStatus_countdown (w : Word) : (s.writeStatus w).countdown = s.countdown := rfl
@[simp] theorem State.writeStatus_latencies (w : Word) : (s.writeStatus w).latencies = s.latencies := rfl
@[simp] theorem State.writeStatus_draws (w : Word) : (s.writeStatus w).draws = s.draws := rfl
@[simp] theorem State.writeStatus_freeCount (w : Word) : (s.writeStatus w).freeCount = s.freeCount := rfl

/-! ### blockReset -/

@[simp] theorem State.blockReset_cmd : (s.blockReset).cmd = 0#64 := rfl
@[simp] theorem State.blockReset_done : (s.blockReset).done = false := rfl
@[simp] theorem State.blockReset_err : (s.blockReset).err = false := rfl
@[simp] theorem State.blockReset_ovr : (s.blockReset).ovr = false := rfl
@[simp] theorem State.blockReset_errcode : (s.blockReset).errcode = 0#4 := rfl
@[simp] theorem State.blockReset_errdetail : (s.blockReset).errdetail = 0#8 := rfl
@[simp] theorem State.blockReset_ie : (s.blockReset).ie = false := rfl
@[simp] theorem State.blockReset_opa : (s.blockReset).opa = 0#64 := rfl
@[simp] theorem State.blockReset_opb : (s.blockReset).opb = 0#64 := rfl
@[simp] theorem State.blockReset_opc : (s.blockReset).opc = 0#64 := rfl
@[simp] theorem State.blockReset_res0 : (s.blockReset).res0 = 0#64 := rfl
@[simp] theorem State.blockReset_res1 : (s.blockReset).res1 = 0#64 := rfl
@[simp] theorem State.blockReset_res2 : (s.blockReset).res2 = 0#64 := rfl
@[simp] theorem State.blockReset_fsm : (s.blockReset).fsm = .idle := rfl
@[simp] theorem State.blockReset_latCmd : (s.blockReset).latCmd = Config.freeLatch s.freeCount := rfl
@[simp] theorem State.blockReset_latA : (s.blockReset).latA = Config.freeLatch (s.freeCount + 1) := rfl
@[simp] theorem State.blockReset_latB : (s.blockReset).latB = Config.freeLatch (s.freeCount + 2) := rfl
@[simp] theorem State.blockReset_latC : (s.blockReset).latC = Config.freeLatch (s.freeCount + 3) := rfl
@[simp] theorem State.blockReset_faults : (s.blockReset).faults = s.faults := rfl
@[simp] theorem State.blockReset_host : (s.blockReset).host = s.host := rfl
@[simp] theorem State.blockReset_responses : (s.blockReset).responses = s.responses := rfl
@[simp] theorem State.blockReset_countdown : (s.blockReset).countdown = 0 := rfl
@[simp] theorem State.blockReset_latencies : (s.blockReset).latencies = s.latencies := rfl
@[simp] theorem State.blockReset_draws : (s.blockReset).draws = s.draws := rfl
@[simp] theorem State.blockReset_freeCount : (s.blockReset).freeCount = s.freeCount + 4 := rfl

/-! ### takeError -/

@[simp] theorem State.takeError_cmd (c : Cause) : (s.takeError c).cmd = s.cmd := rfl
@[simp] theorem State.takeError_done (c : Cause) : (s.takeError c).done = s.done := rfl
@[simp] theorem State.takeError_err (c : Cause) : (s.takeError c).err = true := rfl
@[simp] theorem State.takeError_ovr (c : Cause) : (s.takeError c).ovr = s.ovr := rfl
@[simp] theorem State.takeError_errcode (c : Cause) : (s.takeError c).errcode = c.kind.code := rfl
@[simp] theorem State.takeError_errdetail (c : Cause) : (s.takeError c).errdetail = c.detail := rfl
@[simp] theorem State.takeError_ie (c : Cause) : (s.takeError c).ie = s.ie := rfl
@[simp] theorem State.takeError_opa (c : Cause) : (s.takeError c).opa = s.opa := rfl
@[simp] theorem State.takeError_opb (c : Cause) : (s.takeError c).opb = s.opb := rfl
@[simp] theorem State.takeError_opc (c : Cause) : (s.takeError c).opc = s.opc := rfl
@[simp] theorem State.takeError_res0 (c : Cause) : (s.takeError c).res0 = 0#64 := rfl
@[simp] theorem State.takeError_res1 (c : Cause) : (s.takeError c).res1 = 0#64 := rfl
@[simp] theorem State.takeError_res2 (c : Cause) : (s.takeError c).res2 = 0#64 := rfl
@[simp] theorem State.takeError_fsm (c : Cause) : (s.takeError c).fsm = s.fsm := rfl
@[simp] theorem State.takeError_latCmd (c : Cause) : (s.takeError c).latCmd = s.latCmd := rfl
@[simp] theorem State.takeError_latA (c : Cause) : (s.takeError c).latA = s.latA := rfl
@[simp] theorem State.takeError_latB (c : Cause) : (s.takeError c).latB = s.latB := rfl
@[simp] theorem State.takeError_latC (c : Cause) : (s.takeError c).latC = s.latC := rfl
@[simp] theorem State.takeError_faults (c : Cause) : (s.takeError c).faults = s.faults := rfl
@[simp] theorem State.takeError_host (c : Cause) : (s.takeError c).host = s.host := rfl
@[simp] theorem State.takeError_responses (c : Cause) : (s.takeError c).responses = s.responses := rfl
@[simp] theorem State.takeError_countdown (c : Cause) : (s.takeError c).countdown = s.countdown := rfl
@[simp] theorem State.takeError_latencies (c : Cause) : (s.takeError c).latencies = s.latencies := rfl
@[simp] theorem State.takeError_draws (c : Cause) : (s.takeError c).draws = s.draws := rfl
@[simp] theorem State.takeError_freeCount (c : Cause) : (s.takeError c).freeCount = s.freeCount := rfl

/-! ### takeResults -/

@[simp] theorem State.takeResults_cmd (r0 r1 r2 : Int) : (s.takeResults r0 r1 r2).cmd = s.cmd := rfl
@[simp] theorem State.takeResults_done (r0 r1 r2 : Int) : (s.takeResults r0 r1 r2).done = s.done := rfl
@[simp] theorem State.takeResults_err (r0 r1 r2 : Int) : (s.takeResults r0 r1 r2).err = false := rfl
@[simp] theorem State.takeResults_ovr (r0 r1 r2 : Int) : (s.takeResults r0 r1 r2).ovr = s.ovr := rfl
@[simp] theorem State.takeResults_errcode (r0 r1 r2 : Int) : (s.takeResults r0 r1 r2).errcode = 0#4 := rfl
@[simp] theorem State.takeResults_errdetail (r0 r1 r2 : Int) : (s.takeResults r0 r1 r2).errdetail = 0#8 := rfl
@[simp] theorem State.takeResults_ie (r0 r1 r2 : Int) : (s.takeResults r0 r1 r2).ie = s.ie := rfl
@[simp] theorem State.takeResults_opa (r0 r1 r2 : Int) : (s.takeResults r0 r1 r2).opa = s.opa := rfl
@[simp] theorem State.takeResults_opb (r0 r1 r2 : Int) : (s.takeResults r0 r1 r2).opb = s.opb := rfl
@[simp] theorem State.takeResults_opc (r0 r1 r2 : Int) : (s.takeResults r0 r1 r2).opc = s.opc := rfl
@[simp] theorem State.takeResults_res0 (r0 r1 r2 : Int) : (s.takeResults r0 r1 r2).res0 = word64 r0 := rfl
@[simp] theorem State.takeResults_res1 (r0 r1 r2 : Int) : (s.takeResults r0 r1 r2).res1 = word64 r1 := rfl
@[simp] theorem State.takeResults_res2 (r0 r1 r2 : Int) : (s.takeResults r0 r1 r2).res2 = word64 r2 := rfl
@[simp] theorem State.takeResults_fsm (r0 r1 r2 : Int) : (s.takeResults r0 r1 r2).fsm = s.fsm := rfl
@[simp] theorem State.takeResults_latCmd (r0 r1 r2 : Int) : (s.takeResults r0 r1 r2).latCmd = s.latCmd := rfl
@[simp] theorem State.takeResults_latA (r0 r1 r2 : Int) : (s.takeResults r0 r1 r2).latA = s.latA := rfl
@[simp] theorem State.takeResults_latB (r0 r1 r2 : Int) : (s.takeResults r0 r1 r2).latB = s.latB := rfl
@[simp] theorem State.takeResults_latC (r0 r1 r2 : Int) : (s.takeResults r0 r1 r2).latC = s.latC := rfl
@[simp] theorem State.takeResults_faults (r0 r1 r2 : Int) : (s.takeResults r0 r1 r2).faults = s.faults := rfl
@[simp] theorem State.takeResults_host (r0 r1 r2 : Int) : (s.takeResults r0 r1 r2).host = s.host := rfl
@[simp] theorem State.takeResults_responses (r0 r1 r2 : Int) : (s.takeResults r0 r1 r2).responses = s.responses := rfl
@[simp] theorem State.takeResults_countdown (r0 r1 r2 : Int) : (s.takeResults r0 r1 r2).countdown = s.countdown := rfl
@[simp] theorem State.takeResults_latencies (r0 r1 r2 : Int) : (s.takeResults r0 r1 r2).latencies = s.latencies := rfl
@[simp] theorem State.takeResults_draws (r0 r1 r2 : Int) : (s.takeResults r0 r1 r2).draws = s.draws := rfl
@[simp] theorem State.takeResults_freeCount (r0 r1 r2 : Int) : (s.takeResults r0 r1 r2).freeCount = s.freeCount := rfl

/-! ### markDone -/

@[simp] theorem State.markDone_cmd : (s.markDone).cmd = s.cmd := rfl
@[simp] theorem State.markDone_done : (s.markDone).done = true := rfl
@[simp] theorem State.markDone_err : (s.markDone).err = s.err := rfl
@[simp] theorem State.markDone_ovr : (s.markDone).ovr = s.ovr := rfl
@[simp] theorem State.markDone_errcode : (s.markDone).errcode = s.errcode := rfl
@[simp] theorem State.markDone_errdetail : (s.markDone).errdetail = s.errdetail := rfl
@[simp] theorem State.markDone_ie : (s.markDone).ie = s.ie := rfl
@[simp] theorem State.markDone_opa : (s.markDone).opa = s.opa := rfl
@[simp] theorem State.markDone_opb : (s.markDone).opb = s.opb := rfl
@[simp] theorem State.markDone_opc : (s.markDone).opc = s.opc := rfl
@[simp] theorem State.markDone_res0 : (s.markDone).res0 = s.res0 := rfl
@[simp] theorem State.markDone_res1 : (s.markDone).res1 = s.res1 := rfl
@[simp] theorem State.markDone_res2 : (s.markDone).res2 = s.res2 := rfl
@[simp] theorem State.markDone_fsm : (s.markDone).fsm = .idle := rfl
@[simp] theorem State.markDone_latCmd : (s.markDone).latCmd = s.latCmd := rfl
@[simp] theorem State.markDone_latA : (s.markDone).latA = s.latA := rfl
@[simp] theorem State.markDone_latB : (s.markDone).latB = s.latB := rfl
@[simp] theorem State.markDone_latC : (s.markDone).latC = s.latC := rfl
@[simp] theorem State.markDone_faults : (s.markDone).faults = s.faults := rfl
@[simp] theorem State.markDone_host : (s.markDone).host = s.host := rfl
@[simp] theorem State.markDone_responses : (s.markDone).responses = s.responses := rfl
@[simp] theorem State.markDone_countdown : (s.markDone).countdown = s.countdown := rfl
@[simp] theorem State.markDone_latencies : (s.markDone).latencies = s.latencies := rfl
@[simp] theorem State.markDone_draws : (s.markDone).draws = s.draws := rfl
@[simp] theorem State.markDone_freeCount : (s.markDone).freeCount = s.freeCount := rfl

/-! ### afterDraws -/

@[simp] theorem State.afterDraws_cmd (k : Nat) : (s.afterDraws k).cmd = s.cmd := rfl
@[simp] theorem State.afterDraws_done (k : Nat) : (s.afterDraws k).done = s.done := rfl
@[simp] theorem State.afterDraws_err (k : Nat) : (s.afterDraws k).err = s.err := rfl
@[simp] theorem State.afterDraws_ovr (k : Nat) : (s.afterDraws k).ovr = s.ovr := rfl
@[simp] theorem State.afterDraws_errcode (k : Nat) : (s.afterDraws k).errcode = s.errcode := rfl
@[simp] theorem State.afterDraws_errdetail (k : Nat) : (s.afterDraws k).errdetail = s.errdetail := rfl
@[simp] theorem State.afterDraws_ie (k : Nat) : (s.afterDraws k).ie = s.ie := rfl
@[simp] theorem State.afterDraws_opa (k : Nat) : (s.afterDraws k).opa = s.opa := rfl
@[simp] theorem State.afterDraws_opb (k : Nat) : (s.afterDraws k).opb = s.opb := rfl
@[simp] theorem State.afterDraws_opc (k : Nat) : (s.afterDraws k).opc = s.opc := rfl
@[simp] theorem State.afterDraws_res0 (k : Nat) : (s.afterDraws k).res0 = s.res0 := rfl
@[simp] theorem State.afterDraws_res1 (k : Nat) : (s.afterDraws k).res1 = s.res1 := rfl
@[simp] theorem State.afterDraws_res2 (k : Nat) : (s.afterDraws k).res2 = s.res2 := rfl
@[simp] theorem State.afterDraws_fsm (k : Nat) : (s.afterDraws k).fsm = s.fsm := rfl
@[simp] theorem State.afterDraws_latCmd (k : Nat) : (s.afterDraws k).latCmd = s.latCmd := rfl
@[simp] theorem State.afterDraws_latA (k : Nat) : (s.afterDraws k).latA = s.latA := rfl
@[simp] theorem State.afterDraws_latB (k : Nat) : (s.afterDraws k).latB = s.latB := rfl
@[simp] theorem State.afterDraws_latC (k : Nat) : (s.afterDraws k).latC = s.latC := rfl
@[simp] theorem State.afterDraws_faults (k : Nat) : (s.afterDraws k).faults = s.faults := rfl
@[simp] theorem State.afterDraws_host (k : Nat) : (s.afterDraws k).host = s.host := rfl
@[simp] theorem State.afterDraws_responses (k : Nat) : (s.afterDraws k).responses = s.responses := rfl
@[simp] theorem State.afterDraws_countdown (k : Nat) : (s.afterDraws k).countdown = s.countdown := rfl
@[simp] theorem State.afterDraws_latencies (k : Nat) : (s.afterDraws k).latencies = s.latencies := rfl
@[simp] theorem State.afterDraws_draws (k : Nat) : (s.afterDraws k).draws = s.draws.drop k := rfl
@[simp] theorem State.afterDraws_freeCount (k : Nat) : (s.afterDraws k).freeCount = s.freeCount + k := rfl

/-! ### respond -/

@[simp] theorem State.respond_cmd (m : Nat) (r : Response) : (s.respond m r).cmd = s.cmd := rfl
@[simp] theorem State.respond_done (m : Nat) (r : Response) : (s.respond m r).done = s.done := rfl
@[simp] theorem State.respond_err (m : Nat) (r : Response) : (s.respond m r).err = s.err := rfl
@[simp] theorem State.respond_ovr (m : Nat) (r : Response) : (s.respond m r).ovr = s.ovr := rfl
@[simp] theorem State.respond_errcode (m : Nat) (r : Response) : (s.respond m r).errcode = s.errcode := rfl
@[simp] theorem State.respond_errdetail (m : Nat) (r : Response) : (s.respond m r).errdetail = s.errdetail := rfl
@[simp] theorem State.respond_ie (m : Nat) (r : Response) : (s.respond m r).ie = s.ie := rfl
@[simp] theorem State.respond_opa (m : Nat) (r : Response) : (s.respond m r).opa = s.opa := rfl
@[simp] theorem State.respond_opb (m : Nat) (r : Response) : (s.respond m r).opb = s.opb := rfl
@[simp] theorem State.respond_opc (m : Nat) (r : Response) : (s.respond m r).opc = s.opc := rfl
@[simp] theorem State.respond_res0 (m : Nat) (r : Response) : (s.respond m r).res0 = s.res0 := rfl
@[simp] theorem State.respond_res1 (m : Nat) (r : Response) : (s.respond m r).res1 = s.res1 := rfl
@[simp] theorem State.respond_res2 (m : Nat) (r : Response) : (s.respond m r).res2 = s.res2 := rfl
@[simp] theorem State.respond_fsm (m : Nat) (r : Response) : (s.respond m r).fsm = s.fsm := rfl
@[simp] theorem State.respond_latCmd (m : Nat) (r : Response) : (s.respond m r).latCmd = s.latCmd := rfl
@[simp] theorem State.respond_latA (m : Nat) (r : Response) : (s.respond m r).latA = s.latA := rfl
@[simp] theorem State.respond_latB (m : Nat) (r : Response) : (s.respond m r).latB = s.latB := rfl
@[simp] theorem State.respond_latC (m : Nat) (r : Response) : (s.respond m r).latC = s.latC := rfl
@[simp] theorem State.respond_faults (m : Nat) (r : Response) : (s.respond m r).faults = s.faults := rfl
@[simp] theorem State.respond_host (m : Nat) (r : Response) : (s.respond m r).host = s.host := rfl
@[simp] theorem State.respond_responses (m : Nat) (r : Response) : (s.respond m r).responses = (m, r) :: s.responses := rfl
@[simp] theorem State.respond_countdown (m : Nat) (r : Response) : (s.respond m r).countdown = s.countdown := rfl
@[simp] theorem State.respond_latencies (m : Nat) (r : Response) : (s.respond m r).latencies = s.latencies := rfl
@[simp] theorem State.respond_draws (m : Nat) (r : Response) : (s.respond m r).draws = s.draws := rfl
@[simp] theorem State.respond_freeCount (m : Nat) (r : Response) : (s.respond m r).freeCount = s.freeCount := rfl

/-! ### popHost -/

@[simp] theorem State.popHost_cmd : (s.popHost).cmd = s.cmd := rfl
@[simp] theorem State.popHost_done : (s.popHost).done = s.done := rfl
@[simp] theorem State.popHost_err : (s.popHost).err = s.err := rfl
@[simp] theorem State.popHost_ovr : (s.popHost).ovr = s.ovr := rfl
@[simp] theorem State.popHost_errcode : (s.popHost).errcode = s.errcode := rfl
@[simp] theorem State.popHost_errdetail : (s.popHost).errdetail = s.errdetail := rfl
@[simp] theorem State.popHost_ie : (s.popHost).ie = s.ie := rfl
@[simp] theorem State.popHost_opa : (s.popHost).opa = s.opa := rfl
@[simp] theorem State.popHost_opb : (s.popHost).opb = s.opb := rfl
@[simp] theorem State.popHost_opc : (s.popHost).opc = s.opc := rfl
@[simp] theorem State.popHost_res0 : (s.popHost).res0 = s.res0 := rfl
@[simp] theorem State.popHost_res1 : (s.popHost).res1 = s.res1 := rfl
@[simp] theorem State.popHost_res2 : (s.popHost).res2 = s.res2 := rfl
@[simp] theorem State.popHost_fsm : (s.popHost).fsm = s.fsm := rfl
@[simp] theorem State.popHost_latCmd : (s.popHost).latCmd = s.latCmd := rfl
@[simp] theorem State.popHost_latA : (s.popHost).latA = s.latA := rfl
@[simp] theorem State.popHost_latB : (s.popHost).latB = s.latB := rfl
@[simp] theorem State.popHost_latC : (s.popHost).latC = s.latC := rfl
@[simp] theorem State.popHost_faults : (s.popHost).faults = s.faults := rfl
@[simp] theorem State.popHost_host : (s.popHost).host = s.host.tail := rfl
@[simp] theorem State.popHost_responses : (s.popHost).responses = s.responses := rfl
@[simp] theorem State.popHost_countdown : (s.popHost).countdown = s.countdown - 1 := rfl
@[simp] theorem State.popHost_latencies : (s.popHost).latencies = s.latencies := rfl
@[simp] theorem State.popHost_draws : (s.popHost).draws = s.draws := rfl
@[simp] theorem State.popHost_freeCount : (s.popHost).freeCount = s.freeCount := rfl

/-! ### refuse -/

@[simp] theorem State.refuse_cmd (t : Transaction) : (s.refuse t).cmd = s.cmd := rfl
@[simp] theorem State.refuse_done (t : Transaction) : (s.refuse t).done = s.done := rfl
@[simp] theorem State.refuse_err (t : Transaction) : (s.refuse t).err = s.err := rfl
@[simp] theorem State.refuse_ovr (t : Transaction) : (s.refuse t).ovr = s.ovr := rfl
@[simp] theorem State.refuse_errcode (t : Transaction) : (s.refuse t).errcode = s.errcode := rfl
@[simp] theorem State.refuse_errdetail (t : Transaction) : (s.refuse t).errdetail = s.errdetail := rfl
@[simp] theorem State.refuse_ie (t : Transaction) : (s.refuse t).ie = s.ie := rfl
@[simp] theorem State.refuse_opa (t : Transaction) : (s.refuse t).opa = s.opa := rfl
@[simp] theorem State.refuse_opb (t : Transaction) : (s.refuse t).opb = s.opb := rfl
@[simp] theorem State.refuse_opc (t : Transaction) : (s.refuse t).opc = s.opc := rfl
@[simp] theorem State.refuse_res0 (t : Transaction) : (s.refuse t).res0 = s.res0 := rfl
@[simp] theorem State.refuse_res1 (t : Transaction) : (s.refuse t).res1 = s.res1 := rfl
@[simp] theorem State.refuse_res2 (t : Transaction) : (s.refuse t).res2 = s.res2 := rfl
@[simp] theorem State.refuse_fsm (t : Transaction) : (s.refuse t).fsm = s.fsm := rfl
@[simp] theorem State.refuse_latCmd (t : Transaction) : (s.refuse t).latCmd = s.latCmd := rfl
@[simp] theorem State.refuse_latA (t : Transaction) : (s.refuse t).latA = s.latA := rfl
@[simp] theorem State.refuse_latB (t : Transaction) : (s.refuse t).latB = s.latB := rfl
@[simp] theorem State.refuse_latC (t : Transaction) : (s.refuse t).latC = s.latC := rfl
@[simp] theorem State.refuse_faults (t : Transaction) : (s.refuse t).faults = .busError t.master t.width t.off t.access :: s.faults := rfl
@[simp] theorem State.refuse_host (t : Transaction) : (s.refuse t).host = s.host := rfl
@[simp] theorem State.refuse_responses (t : Transaction) : (s.refuse t).responses = (t.master, .busError) :: s.responses := rfl
@[simp] theorem State.refuse_countdown (t : Transaction) : (s.refuse t).countdown = s.countdown := rfl
@[simp] theorem State.refuse_latencies (t : Transaction) : (s.refuse t).latencies = s.latencies := rfl
@[simp] theorem State.refuse_draws (t : Transaction) : (s.refuse t).draws = s.draws := rfl
@[simp] theorem State.refuse_freeCount (t : Transaction) : (s.refuse t).freeCount = s.freeCount := rfl

end Sys2Proof.Machine
end

