-- ==== Sys2Proof/Laws/Ops.lean ====
section
/-! SUPPORT. What each shared operation can do, said once: the completion, the writes, the host step, and from them one
inversion lemma for a step of the machine. Later proofs cite these and unfold no operation. -/

namespace Sys2Proof.Machine

/-! ### Completion -/

@[simp] theorem complete_of_busy {s : State} (r : CmdResult) (h : s.fsm = .busy) :
    complete r s = .next (s.finish r) := by simp [complete, h]

@[simp] theorem complete_of_idle {s : State} (r : CmdResult) (h : s.fsm = .idle) :
    complete r s = .refused .noEnabledStep := by simp [complete, h]

theorem complete_next {s t : State} {r : CmdResult} (h : complete r s = .next t) :
    s.fsm = .busy ∧ t = s.finish r := by
  cases hs : s.fsm <;> simp_all

@[simp] theorem State.finish_ok (s : State) (r0 r1 r2 : Int) :
    s.finish (.ok r0 r1 r2) = (s.takeResults r0 r1 r2).markDone := rfl

@[simp] theorem State.finish_raise (s : State) (c : Cause) :
    s.finish (.raise c) = (s.takeError c).markDone := rfl

theorem legalErrorPair_cause (c : Cause) : legalErrorPair c.kind.code c.detail = true := by
  cases c <;> decide

theorem Cause.code_ne_zero (c : Cause) : c.kind.code ≠ 0#4 := by cases c <;> decide

/-- A completion leaves only these fields changed, and leaves the engine IDLE with DONE set (R73). -/
theorem State.finish_frame (s : State) (r : CmdResult) :
    (s.finish r).done = true ∧ (s.finish r).fsm = .idle ∧ (s.finish r).cmd = s.cmd ∧ (s.finish r).ovr = s.ovr ∧
    (s.finish r).ie = s.ie ∧ (s.finish r).opa = s.opa ∧ (s.finish r).opb = s.opb ∧ (s.finish r).opc = s.opc ∧
    (s.finish r).latCmd = s.latCmd ∧ (s.finish r).latA = s.latA ∧ (s.finish r).latB = s.latB ∧
    (s.finish r).latC = s.latC ∧ (s.finish r).faults = s.faults ∧ (s.finish r).host = s.host ∧
    (s.finish r).responses = s.responses ∧ (s.finish r).countdown = s.countdown ∧
    (s.finish r).latencies = s.latencies ∧ (s.finish r).draws = s.draws ∧
    (s.finish r).freeCount = s.freeCount := by
  cases r <;> simp

@[simp] theorem State.afterDraws_zero (s : State) : s.afterDraws 0 = s := rfl

/-! ### Writes -/

@[simp] theorem State.issue_of_idle {s : State} (w : Word) (h : s.fsm = .idle) : s.issue w = s.accept w := by
  simp [State.issue, h]

@[simp] theorem State.issue_of_busy {s : State} (w : Word) (h : s.fsm = .busy) : s.issue w = s.drop := by
  simp [State.issue, h]

@[simp] theorem State.writeCtrl_of_bit1 {w : Word} (s : State) (h : w.getLsbD 1 = true) :
    s.writeCtrl w = s.blockReset := by simp only [State.writeCtrl, h, if_true]

@[simp] theorem State.writeCtrl_of_not_bit1 {w : Word} (s : State) (h : w.getLsbD 1 = false) :
    s.writeCtrl w = { s with ie := w.getLsbD 0 } := by simp only [State.writeCtrl, h]; rfl

@[simp] theorem State.writeOffset_cmd (s : State) (w : Word) : s.writeOffset cmdOffset w = s.issue w := rfl

@[simp] theorem State.writeOffset_status (s : State) (w : Word) :
    s.writeOffset statusOffset w = s.writeStatus w := rfl

@[simp] theorem State.writeOffset_ctrl (s : State) (w : Word) : s.writeOffset ctrlOffset w = s.writeCtrl w := rfl

theorem regAt_offset (r : Reg) : regAt r.offset = some r := by cases r <;> rfl

theorem offset_of_regAt {off : Offset} {r : Reg} (h : regAt off = some r) : off = r.offset := by
  unfold regAt at h
  split at h <;> first | (injection h with h; subst h; exact BitVec.eq_of_toNat_eq ‹_›) | simp at h

/-- What a write at any offset can do (R45): nothing, one operand register, or one of the three writes with side
effects. -/
theorem State.writeOffset_cases (s : State) (off : Offset) (w : Word) :
    s.writeOffset off w = s ∨ s.writeOffset off w = { s with opa := w } ∨ s.writeOffset off w = { s with opb := w } ∨
    s.writeOffset off w = { s with opc := w } ∨
    (off = cmdOffset ∧ s.writeOffset off w = s.issue w) ∨
    (off = statusOffset ∧ s.writeOffset off w = s.writeStatus w) ∨
    (off = ctrlOffset ∧ s.writeOffset off w = s.writeCtrl w) := by
  unfold State.writeOffset
  cases h : regAt off with
  | none => simp
  | some r =>
    have hr := offset_of_regAt h
    cases r <;> subst hr <;> simp [State.writeReg] <;> simp [Reg.offset, cmdOffset, statusOffset, ctrlOffset]

/-! ### The bus and the queue -/

@[simp] theorem State.transact_of_refused {t : Transaction} (s : State) (h : t.admitted = false) :
    s.transact t = s.refuse t := by simp [State.transact, h]

theorem State.transact_read {t : Transaction} (s : State) (h : t.admitted = true) (ha : t.access = .read) :
    s.transact t = s.respond t.master (.data (s.readOffset t.off)) := by simp [State.transact, h, ha]

theorem State.transact_write {t : Transaction} {w : Word} (s : State) (h : t.admitted = true)
    (ha : t.access = .write w) :
    s.transact t = (s.respond t.master .written).writeOffset t.off w := by simp [State.transact, h, ha]

/-- The three things a transaction can be. -/
theorem State.transact_cases (s : State) (t : Transaction) :
    (t.admitted = false ∧ s.transact t = s.refuse t) ∨
    (t.admitted = true ∧ t.access = .read ∧ s.transact t = s.respond t.master (.data (s.readOffset t.off))) ∨
    (∃ w, t.admitted = true ∧ t.access = .write w ∧
      s.transact t = (s.respond t.master .written).writeOffset t.off w) := by
  cases h : t.admitted with
  | false => exact .inl ⟨rfl, s.transact_of_refused h⟩
  | true =>
    cases ha : t.access with
    | read => exact .inr (.inl ⟨rfl, rfl, s.transact_read h ha⟩)
    | write w => exact .inr (.inr ⟨w, rfl, rfl, s.transact_write h ha⟩)

/-! ### Instructions -/

/-- A control row's meaning is the register write at its offset (R75 to R77). -/
theorem exec_control {i : Instr} (h : isCommand i = false) (s : State) :
    exec i s = .next (s.writeOffset (encodeOffset i) (encodeWord i)) := by
  cases i <;> first | rfl | simp [isCommand] at h

/-- A command's meaning is a completion (R73), after the draws it used (PRIME_FERMAT only, R68). -/
theorem exec_command {i : Instr} (h : isCommand i = true) (s : State) :
    ∃ r k, exec i s = complete r (s.afterDraws k) := by
  cases i <;> first | exact ⟨_, 0, rfl⟩ | exact ⟨_, _, rfl⟩ | simp [isCommand] at h

theorem decodeCommand_isCommand (w : Word) : isCommand (decodeCommand w) = true := by
  unfold decodeCommand
  split_ifs
  · rfl
  · rfl
  · split <;> rfl

/-- A write at STATUS or CTRL that decodes is a control row, encoded as that write. -/
theorem decodeWrite_control {off : Offset} {w : Word} {i : Instr} (ho : off ≠ cmdOffset)
    (h : decodeWrite off w = .ok i) :
    isCommand i = false ∧ encodeOffset i = off ∧ encodeWord i = w := by
  simp only [decodeWrite, if_neg ho] at h
  split_ifs at h with h1 h2
  · unfold decodeStatusWrite at h
    split_ifs at h <;> (injection h with h; subst h; simp [isCommand, encodeOffset, encodeWord, h1])
  · unfold decodeCtrlWrite at h
    split_ifs at h <;> (injection h with h; subst h; simp [isCommand, encodeOffset, encodeWord, h2])

/-! ### One step -/

/-- What a step that goes on can be: a completion, or the host operation at the head of the queue. -/
theorem step_cases {s t : State} (h : step s = .next t) :
    (s.engineTurn = true ∧ s.fsm = .busy ∧ ∃ r k, t = (s.afterDraws k).finish r) ∨
    (s.engineTurn = false ∧
      ((∃ x rest, s.host = .access x :: rest ∧ t = s.popHost.transact x) ∨
      (∃ m rest, s.host = .wait m :: rest ∧ t = s.pollWait m) ∨
      (∃ rest, s.host = .resetInput :: rest ∧ t = s.popHost.blockReset))) := by
  cases he : s.engineTurn with
  | true =>
    have hf : s.fetch = some (decodeCommand s.latCmd, s) := by simp [State.fetch, he]
    obtain ⟨r, k, hrk⟩ := exec_command (decodeCommand_isCommand s.latCmd) s
    simp only [step, hf, hrk] at h
    obtain ⟨hb, rfl⟩ := complete_next h
    exact .inl ⟨rfl, by simpa using hb, r, k, rfl⟩
  | false =>
    refine .inr ⟨rfl, ?_⟩
    unfold step at h
    cases hf : s.fetch with
    | none =>
      simp only [hf, hostStep] at h
      split at h
      · simp at h
      all_goals
        rename_i heq
        injection h with h
        subst h
        simp [heq]
    | some p =>
      obtain ⟨i, u⟩ := p
      simp only [hf] at h
      simp only [State.fetch, he] at hf
      split at hf
      · simp at *
      · split at hf
        · rename_i m width off w rest hh
          split at hf
          · rename_i hadm
            split at hf
            · rename_i j hj
              simp only [Option.some.injEq, Prod.mk.injEq] at hf
              obtain ⟨rfl, rfl⟩ := hf
              simp only [Bool.and_eq_true, decide_eq_true_eq] at hadm
              obtain ⟨hc, ho, hw⟩ := decodeWrite_control hadm.2 hj
              rw [exec_control hc, ho, hw] at h
              injection h with h
              subst h
              refine .inl ⟨_, rest, hh, ?_⟩
              rw [State.transact_write _ hadm.1 rfl]
            · simp at hf
          · simp at hf
        · simp at hf

/-- The engine's step: the meaning of the command in flight (R70, R73). -/
theorem step_of_engineTurn {s : State} (h : s.engineTurn = true) : step s = exec (decodeCommand s.latCmd) s := by
  have hf : s.fetch = some (decodeCommand s.latCmd, s) := by simp [State.fetch, h]
  simp [step, hf]

/-- A host transaction's step, whether or not it runs a control row (R39 to R45, R75 to R77). -/
theorem step_of_access {s : State} {x : Transaction} {rest : List HostOp} (h : s.engineTurn = false)
    (hh : s.host = .access x :: rest) : step s = .next (s.popHost.transact x) := by
  obtain ⟨m, width, off, acc⟩ := x
  by_cases hc : ∃ i w, acc = .write w ∧ (Transaction.mk m width off acc).admitted = true ∧ off ≠ cmdOffset ∧
      decodeWrite off w = .ok i
  · obtain ⟨i, w, rfl, ha, ho, hd⟩ := hc
    have hf : s.fetch = some (i, s.popHost.respond m .written) := by simp [State.fetch, h, hh, ha, ho, hd]
    obtain ⟨h1, h2, h3⟩ := decodeWrite_control ho hd
    simp only [step, hf]
    rw [exec_control h1, h2, h3, State.transact_write _ ha rfl]
  · have hf : s.fetch = none := by
      simp only [State.fetch, h, hh]
      cases acc with
      | read => simp
      | write w =>
        simp only [Bool.false_eq_true, if_false, Bool.and_eq_true, decide_eq_true_eq]
        split_ifs with ha
        · cases hd : decodeWrite off w with
          | error e => rfl
          | ok i => exact absurd ⟨i, w, rfl, ha.1, ha.2, hd⟩ hc
        · rfl
    simp only [step, hf, hostStep, hh]

/-- Every register's offset is a multiple of 8 (R14), so a 64-bit transaction there is admitted (R39). -/
theorem admitted_at_register (m : Nat) (r : Reg) (acc : Access) :
    (Transaction.mk m Config.busDataWidth r.offset acc).admitted = true := by
  rw [Transaction.admitted, Bool.and_eq_true, decide_eq_true_eq, decide_eq_true_eq]
  exact ⟨rfl, by show r.offset.toNat % 8 = 0; cases r <;> decide⟩

/-- The step of `WR r, w` (R64): the register write, after the bus has taken and answered it. -/
theorem step_of_wr {s : State} {m : Nat} {r : Reg} {w : Word} {rest : List HostOp} (h : s.engineTurn = false)
    (hh : s.host = wr m r w :: rest) : step s = .next ((s.popHost.respond m .written).writeReg r w) := by
  rw [step_of_access h hh, State.transact_write _ (admitted_at_register m r _) rfl, State.writeOffset, regAt_offset]

/-- One poll's step (R64). -/
theorem step_of_wait {s : State} {m : Nat} {rest : List HostOp} (h : s.engineTurn = false)
    (hh : s.host = .wait m :: rest) : step s = .next (s.pollWait m) := by
  have hf : s.fetch = none := by simp [State.fetch, h, hh]
  simp only [step, hf, hostStep, hh]

/-- The reset input's step (R122). -/
theorem step_of_resetInput {s : State} {rest : List HostOp} (h : s.engineTurn = false)
    (hh : s.host = .resetInput :: rest) : step s = .next s.popHost.blockReset := by
  have hf : s.fetch = none := by simp [State.fetch, h, hh]
  simp only [step, hf, hostStep, hh]

/-- A run's first step. -/
theorem run_succ_of_step {s t : State} (k : Nat) (h : step s = .next t) :
    Host.Core.run core (k + 1) s = Host.Core.run core k t := by
  have h' : core.step s = .next t := h
  simp only [Host.Core.run, h']

/-! ### The states of a run -/

/-- Where no fault is recorded, a block reset leaves a reset state, from which a run may start (R122, R126). -/
theorem State.blockReset_isReset {s : State} (h : s.faults = []) : s.blockReset.isReset := by
  simp [State.isReset, State.blockReset, State.reset, h]

theorem State.launch_of_isReset {s : State} (h : s.isReset) : s.launch :=
  ⟨.reset s h, by rw [h]; rfl, by rw [h]; rfl⟩

/-- What holds of every reset state, is kept by every admitted step and does not depend on the model's own fields holds
of every reached state. -/
theorem Reached.invariant {P : State → Prop} (h0 : ∀ s : State, s.isReset → P s)
    (hstep : ∀ s t : State, P s → (s.engineTurn = true ∨ ∃ op, s.host.head? = some op ∧ op.admitted = true) →
      step s = .next t → P t)
    (hload : ∀ (s : State) host responses countdown latencies draws freeCount, P s →
      P { s with host, responses, countdown, latencies, draws, freeCount })
    {s : State} (h : Reached s) : P s := by
  induction h with
  | reset s h => exact h0 s h
  | next s t _ h ht ih => exact hstep s t ih h ht
  | reload s host responses countdown latencies draws freeCount _ ih =>
    exact hload s host responses countdown latencies draws freeCount ih

end Sys2Proof.Machine
end

