-- ==== Sys2Proof/Laws/PerInstr.lean ====
section
/-! SUPPORT. Statements about every instruction as syntax, one lemma per constructor. -/

namespace Sys2Proof.Laws

namespace RowOffset

/-- The register a row is written to (spec/opcode_table.json: offset): CMD for the commands, STATUS or CTRL for the
control rows; always an offset the block admits (R39). -/
def Statement (i : Instr) : Prop :=
  (Machine.isCommand i = true → encodeOffset i = cmdOffset) ∧
  (Machine.isCommand i = false → encodeOffset i = statusOffset ∨ encodeOffset i = ctrlOffset) ∧
  (encodeOffset i).toNat % 8 = 0

theorem cmd_admitted : cmdOffset.toNat % 8 = 0 := by decide
theorem status_admitted : statusOffset.toNat % 8 = 0 := by decide
theorem ctrl_admitted : ctrlOffset.toNat % 8 = 0 := by decide

theorem gcd : Statement .gcd := ⟨fun _ => rfl, fun h => Bool.noConfusion h, cmd_admitted⟩
theorem xgcd : Statement .xgcd := ⟨fun _ => rfl, fun h => Bool.noConfusion h, cmd_admitted⟩
theorem modpow : Statement .modpow := ⟨fun _ => rfl, fun h => Bool.noConfusion h, cmd_admitted⟩
theorem modinv : Statement .modinv := ⟨fun _ => rfl, fun h => Bool.noConfusion h, cmd_admitted⟩
theorem primeTd : Statement .primeTd := ⟨fun _ => rfl, fun h => Bool.noConfusion h, cmd_admitted⟩
theorem primeFermat (rounds : BitVec 8) : Statement (.primeFermat rounds) :=
  ⟨fun _ => rfl, fun h => Bool.noConfusion h, cmd_admitted⟩
theorem fermatWitness : Statement .fermatWitness := ⟨fun _ => rfl, fun h => Bool.noConfusion h, cmd_admitted⟩
theorem illegal (w : Word) : Statement (.illegal w) := ⟨fun _ => rfl, fun h => Bool.noConfusion h, cmd_admitted⟩
theorem ack (w : Word) : Statement (.ack w) :=
  ⟨fun h => Bool.noConfusion h, fun _ => .inl rfl, status_admitted⟩
theorem clrovr (w : Word) : Statement (.clrovr w) :=
  ⟨fun h => Bool.noConfusion h, fun _ => .inl rfl, status_admitted⟩
theorem ei (w : Word) : Statement (.ei w) :=
  ⟨fun h => Bool.noConfusion h, fun _ => .inr rfl, ctrl_admitted⟩
theorem di (w : Word) : Statement (.di w) :=
  ⟨fun h => Bool.noConfusion h, fun _ => .inr rfl, ctrl_admitted⟩
theorem srst (w : Word) : Statement (.srst w) :=
  ⟨fun h => Bool.noConfusion h, fun _ => .inr rfl, ctrl_admitted⟩

end RowOffset

end Sys2Proof.Laws
end

