-- ==== Sys2Proof/Tests/Slice0.lean ====
section
/-! SUPPORT. Checks on fixed values. Every expected value is the spec's own: the encodings of 30_encoding.md and
spec/opcode_table.json, the vectors of 95_test_vectors.md (its rows are named beside each test), or a rule applied by
hand. The last part meets the hypotheses of each obligation with a concrete state (`witness_<Name>`). -/

namespace Sys2Proof.Tests

open Sys2Proof.Machine Sys2Proof.Claims

set_option maxRecDepth 8000

/-! ### Helpers -/

/-- A block with the command word `w` in flight on operands a, b, c, its latency over. -/
def flight (w : Word) (a b c : Int) : State :=
  { State.reset with fsm := .busy, cmd := w, latCmd := w, latA := word64 a, latB := word64 b, latC := word64 c }

/-- A 64-bit write by host 0. -/
def write (off : Offset) (w : Word) : HostOp := .access ⟨0, 64, off, .write w⟩

/-- A 64-bit read by host 0. -/
def read (off : Offset) : HostOp := .access ⟨0, 64, off, .read⟩

/-- `s` with these host operations to come. -/
def State.sends (s : State) (ops : List HostOp) : State := { s with host := ops }

/-- The next state of an outcome; `s` where there is none. -/
def nextOr (s : State) : Host.Outcome State Fault Refusal → State
  | .next t => t
  | .fault _ => s
  | .refused _ => s

/-- Whether an outcome is a next state. -/
def goesOn : Host.Outcome State Fault Refusal → Bool
  | .next _ => true
  | .fault _ => false
  | .refused _ => false

/-- The state after one step, where the step goes on. -/
def after (s : State) : State := nextOr s (step s)

theorem eq_next {o : Host.Outcome State Fault Refusal} {s : State} (h : goesOn o = true) : o = .next (nextOr s o) := by
  cases o <;> first | rfl | simp [goesOn] at h

/-- What a host sees of the completion of the word `w` on a, b, c: RES0, RES1, RES2 and STATUS. -/
def seen (w : Word) (a b c : Int) : Int × Int × Int × Word :=
  let t := after (flight w a b c)
  (t.res0.toInt, t.res1.toInt, t.res2.toInt, t.statusWord)

/-! ### WellFormed refuses ill-formed terms -/

theorem test_illegal_refuses_legal_word : (Instr.illegal 0x0000000000000001#64).wellFormed = false := by decide
theorem test_illegal_refuses_fermat_word : (Instr.illegal 0x000000000000FF06#64).wellFormed = false := by decide
theorem test_ack_refuses_bit1_clear : (Instr.ack 0xFFFFFFFFFFFFFFFD#64).wellFormed = false := by decide
theorem test_clrovr_refuses_bit3_clear : (Instr.clrovr 0xFFFFFFFFFFFFFFF5#64).wellFormed = false := by decide
theorem test_clrovr_refuses_bit1_set : (Instr.clrovr 0xA#64).wellFormed = false := by decide
theorem test_ei_refuses_bit0_clear : (Instr.ei 0#64).wellFormed = false := by decide
theorem test_ei_refuses_bit1_set : (Instr.ei 3#64).wellFormed = false := by decide
theorem test_di_refuses_bit0_set : (Instr.di 1#64).wellFormed = false := by decide
theorem test_di_refuses_bit1_set : (Instr.di 2#64).wellFormed = false := by decide
theorem test_srst_refuses_bit1_clear : (Instr.srst 1#64).wellFormed = false := by decide

/-! ### Decoding: one word of every row, written out from R56, R57, R63 and R75 to R77, lane 0 first (R42) -/

theorem test_decode_gcd : decodeBytes 0x08#8 [0x01#8, 0, 0, 0, 0, 0, 0, 0] = .ok (.gcd, []) := rfl
theorem test_decode_xgcd : decodeBytes 0x08#8 [0x02#8, 0, 0, 0, 0, 0, 0, 0] = .ok (.xgcd, []) := rfl
theorem test_decode_modpow : decodeBytes 0x08#8 [0x03#8, 0, 0, 0, 0, 0, 0, 0] = .ok (.modpow, []) := rfl
theorem test_decode_modinv : decodeBytes 0x08#8 [0x04#8, 0, 0, 0, 0, 0, 0, 0] = .ok (.modinv, []) := rfl
theorem test_decode_primeTd : decodeBytes 0x08#8 [0x05#8, 0, 0, 0, 0, 0, 0, 0] = .ok (.primeTd, []) := rfl
theorem test_decode_primeFermat :
    decodeBytes 0x08#8 [0x06#8, 0x81#8, 0, 0, 0, 0, 0, 0] = .ok (.primeFermat 0x81#8, []) := rfl
theorem test_decode_fermatWitness : decodeBytes 0x08#8 [0x07#8, 0, 0, 0, 0, 0, 0, 0] = .ok (.fermatWitness, []) := rfl
theorem test_decode_illegal_opcode :
    decodeBytes 0x08#8 [0x08#8, 0, 0, 0, 0, 0, 0, 0] = .ok (.illegal 0x0000000000000008#64, []) := rfl
theorem test_decode_illegal_rounds :
    decodeBytes 0x08#8 [0x07#8, 0x32#8, 0, 0, 0, 0, 0, 0] = .ok (.illegal 0x0000000000003207#64, []) := rfl
theorem test_decode_illegal_rsvd :
    decodeBytes 0x08#8 [0x06#8, 0, 0, 0, 0, 0, 0, 0x80#8] = .ok (.illegal 0x8000000000000006#64, []) := rfl
theorem test_decode_ack :
    decodeBytes 0x10#8 [0x0A#8, 0, 0, 0, 0, 0, 0, 0] = .ok (.ack 0x000000000000000A#64, []) := rfl
theorem test_decode_clrovr :
    decodeBytes 0x10#8 [0x08#8, 0x01#8, 0, 0, 0, 0, 0, 0] = .ok (.clrovr 0x0000000000000108#64, []) := rfl
theorem test_decode_ei :
    decodeBytes 0x18#8 [0xF1#8, 0, 0, 0, 0, 0, 0, 0] = .ok (.ei 0x00000000000000F1#64, []) := rfl
theorem test_decode_di : decodeBytes 0x18#8 [0x04#8, 0, 0, 0, 0, 0, 0, 0] = .ok (.di 0x0000000000000004#64, []) := rfl
theorem test_decode_srst :
    decodeBytes 0x18#8 [0x03#8, 0, 0, 0, 0, 0, 0, 0] = .ok (.srst 0x0000000000000003#64, []) := rfl

theorem test_decode_refuses_other_offset : decodeWrite 0x20#8 1#64 = .error (.noRowAtOffset 0x20#8) := rfl
theorem test_decode_refuses_status_without_w1c :
    decodeWrite 0x10#8 0xFFFFFFFFFFFFFFF5#64 = .error (.statusWriteClearsNothing 0xFFFFFFFFFFFFFFF5#64) := rfl
theorem test_decode_refuses_short : decodeBytes 0x08#8 [1, 0, 0, 0] = .error (.tooFewBytes 4) := rfl

/-! ### The table's words through the host's interface -/

theorem test_table_word_fermat : decodeTableWord 64 0x3206 = some (.primeFermat 50#8) := by decide
theorem test_table_word_ei : decodeTableWord 8 0x1 = some (.ei 1#64) := by decide
theorem test_fetch_word_runs_first : goesOn (step (State.reset.withFetchWord 64 0x4)) = true := by decide
theorem test_fetch_word_runs_control : goesOn (step (State.reset.withFetchWord 8 0x2)) = true := by decide

/-! ### Commands: at most two vectors each, from 95_test_vectors.md sections 2.1 to 2.8 -/

theorem test_gcd : seen 0x01#64 1147 899 0 = (31, 0, 0, 0x2#64) := by decide
theorem test_gcd_operand_min_before_order : seen 0x01#64 1 (-9223372036854775808) 0 = (0, 0, 0, 0x10306#64) := by decide
theorem test_xgcd_sign_fix : seen 0x02#64 (-259) 70 0 = (-3, -11, 7, 0x2#64) := by decide
theorem test_xgcd_worst_case : seen 0x02#64 7540113804746346429 4660046610375530309 0 =
    (1779979416004714189, -2880067194370816120, 1, 0x2#64) := by decide
theorem test_modpow_wide_product : seen 0x03#64 4611686018427387905 2 9223372036854775783 =
    (2305843009213694128, 0, 0, 0x2#64) := by decide
theorem test_modpow_neg_exponent_first : seen 0x03#64 2 (-1) 0 = (0, 0, 0, 0x30106#64) := by decide
theorem test_modinv_negative : seen 0x04#64 (-3) 7 0 = (2, 0, 0, 0x2#64) := by decide
theorem test_modinv_modulus_one : seen 0x04#64 1 1 0 = (0, 0, 0, 0x2#64) := by decide
theorem test_primeTd_square_at_bound : seen 0x05#64 49 0 0 = (0, 7, 0, 0x2#64) := by decide
theorem test_primeTd_two : seen 0x05#64 2 0 0 = (1, 0, 0, 0x2#64) := by decide
theorem test_primeFermat_third_round_fails :
    let t := after { flight 0x306#64 561 0 0 with draws := [2, 4, 3] }
    (t.res0, t.res1, t.res2, t.statusWord, t.draws) = (0#64, 3#64, 3#64, 0x2#64, []) := by decide
theorem test_primeFermat_n_too_small : seen 0x06#64 1 0 0 = (0, 0, 0, 0x60106#64) := by decide
theorem test_fermatWitness_fails : seen 0x07#64 341 3 0 = (0, 56, 0, 0x2#64) := by decide
theorem test_fermatWitness_range : seen 0x07#64 5 0 0 = (0, 0, 0, 0x70106#64) := by decide
theorem test_illegal_rsvd_before_rounds : seen 0x10106#64 9 9 9 = (0, 0, 0, 0x20406#64) := by decide
theorem test_illegal_rounds : seen 0x3207#64 9 9 9 = (0, 0, 0, 0x30406#64) := by decide

/-! ### Control operations (R75 to R77; section 2.9, rows B7 to B10) -/

theorem test_ack_keeps_error : -- B10
    (after (State.sends { State.reset with done := true, err := true, errcode := 1, errdetail := 1 }
      [write 0x10#8 0x2#64])).statusWord = 0x10104#64 := by decide
theorem test_clrovr_keeps_done : -- R75 by hand
    (after (State.sends { State.reset with done := true, ovr := true } [write 0x10#8 0x8#64])).statusWord = 0x2#64 := by
  decide
theorem test_status_write_all_ones : -- B9
    (after (State.sends { State.reset with done := true, ovr := true }
      [write 0x10#8 0xFFFFFFFFFFFFFFFF#64])).statusWord = 0x0#64 := by decide
theorem test_ei : -- B7
    (after (State.sends State.reset [write 0x18#8 0x1#64])).ctrlWord = 0x1#64 := by decide
theorem test_di : -- R76 by hand: bits above bit 1 are ignored
    (after (State.sends { State.reset with ie := true } [write 0x18#8 0xF0#64])).ctrlWord = 0x0#64 := by decide
theorem test_srst_resets_ie : -- B8
    (after (State.sends { State.reset with ie := true, opa := 5 } [write 0x18#8 0x3#64])).ctrlWord = 0x0#64 := by decide
theorem test_srst_abandons_command : -- P6
    (after { State.sends (flight 0x05#64 2147483647 0 0) [write 0x18#8 0x2#64] with countdown := 1 }).fsm = .idle := by
  decide

/-! ### Bus transactions (section 2.9, rows B1 to B6 and B11 to B13; programs P1 and P4) -/

theorem test_read_id : -- B1
    (after (State.sends State.reset [read 0x00#8])).responses = [(0, .data 0x000000004D580100#64)] := by decide
theorem test_read_reserved : -- B3
    (after (State.sends State.reset [read 0xF8#8])).responses = [(0, .data 0#64)] := by decide
theorem test_write_res0_ignored : -- B4
    (after (State.sends State.reset [write 0x40#8 5#64])).res0 = 0#64 := by decide
theorem test_write_opa : -- B6
    (after (State.sends State.reset [write 0x20#8 0xFFFFFFFFFFFFFFF5#64])).opa = 0xFFFFFFFFFFFFFFF5#64 := by decide
theorem test_narrow_read_is_bus_error : -- B11
    let t := after (State.sends State.reset [.access ⟨0, 32, 0x10#8, .read⟩])
    (t.faults, t.responses) = ([.busError 0 32 0x10#8 .read], [(0, .busError)]) := by decide
theorem test_misaligned_write_is_bus_error : -- B12
    let t := after (State.sends State.reset [.access ⟨0, 64, 0x0C#8, .write 1#64⟩])
    (t.faults, t.fsm, t.cmd) = ([.busError 0 64 0x0C#8 (.write 1#64)], .idle, 0#64) := by decide
theorem test_busy_cmd_write_dropped : -- B13
    let t := after { State.sends (flight 0x03#64 2 10 1000) [write 0x08#8 0x1#64] with countdown := 1 }
    (t.statusWord, t.cmd) = (0x9#64, 0x3#64) := by decide
theorem test_accept_latches : -- P1
    let t := after (State.sends { State.reset with opa := 0x103, opb := 0x46, latencies := [7] } [write 0x08#8 0x2#64])
    (t.statusWord, t.latA, t.latB, t.latCmd, t.countdown) = (0x1#64, 0x103#64, 0x46#64, 0x2#64, 7) := by decide
theorem test_accept_clears_error : -- P4
    (after (State.sends { State.reset with err := true, errcode := 1, errdetail := 1, latencies := [0] }
      [write 0x08#8 0x105#64])).statusWord = 0x1#64 := by decide

/-! ### Pseudo-instructions (R65) and launch states (R126) -/

theorem test_expand_modpow : expand 0 (.modpow (-3) 3 5) =
    [write 0x20#8 0xFFFFFFFFFFFFFFFD#64, write 0x28#8 3#64, write 0x30#8 5#64, write 0x08#8 0x3#64, .wait 0] := by
  decide
theorem test_expand_primeFermat : expand 0 (.primeFermat 561 3#8) =
    [write 0x20#8 561#64, write 0x08#8 0x306#64, .wait 0] := by decide
theorem test_expand_control :
    [Pseudo.ack, .clrovr, .ei, .di, .srst].map (expand 0) =
      [[write 0x10#8 0x2#64], [write 0x10#8 0x8#64], [write 0x18#8 0x1#64], [write 0x18#8 0x0#64],
        [write 0x18#8 0x2#64]] := by decide
theorem test_pseudo_refuses_zero_rounds : (Pseudo.primeFermat 97 0#8).wellFormed = false := by decide
theorem test_pseudo_refuses_wide_operand : (Pseudo.gcd 9223372036854775808 1).wellFormed = false := by decide
theorem test_reset_is_launch : State.reset.launch := State.launch_of_isReset (by decide)

/-! ### Witnesses: the hypotheses of each obligation hold together somewhere -/

theorem witness_DecodeEncodeRoundTrip :
    ∀ i ∈ [Instr.gcd, .xgcd, .modpow, .modinv, .primeTd, .primeFermat 0#8, .primeFermat 255#8, .fermatWitness,
      .illegal 0#64, .illegal 0x101#64, .ack 2#64, .clrovr 8#64, .ei 1#64, .di 0#64, .srst 3#64],
      i.wellFormed = true := by decide

theorem witness_EncodeDecodeRoundTrip : decodeWrite 0x18#8 3#64 = .ok (.srst 3#64) := rfl

theorem witness_CommandWordDecodes :
    (legalWord 0x01#64 ∧ legalWord 0x02#64 ∧ legalWord 0x03#64 ∧ legalWord 0x04#64 ∧ legalWord 0x05#64 ∧
      legalWord 0x06#64 ∧ legalWord 0xFF06#64 ∧ legalWord 0x07#64) ∧
    ¬ legalWord 0x00#64 ∧ ¬ legalWord 0x08#64 ∧ ¬ legalWord 0x107#64 ∧ ¬ legalWord 0x10006#64 := by
  unfold legalWord; decide

theorem witness_StepRunsDecodedCommand :
    ∃ s t : State, s.fsm = .busy ∧ s.countdown = 0 ∧ s.host = [read 0#8] ∧
      t.fsm = .busy ∧ t.countdown = 3 ∧ t.host = [] :=
  ⟨State.sends (flight 1 6 4 0) [read 0#8], { flight 1 6 4 0 with countdown := 3 }, by decide⟩

theorem witness_StepRunsDecodedControlWrite :
    (nextIs (State.sends State.reset [write 0x10#8 2#64]) 0 64 0x10#8 (.write 2#64) ∧
      decodeWrite 0x10#8 2#64 = .ok (.ack 2#64)) ∧
    (nextIs (State.sends State.reset [write 0x18#8 1#64]) 0 64 0x18#8 (.write 1#64) ∧
      decodeWrite 0x18#8 1#64 = .ok (.ei 1#64)) :=
  ⟨⟨⟨by decide, by decide⟩, rfl⟩, ⟨⟨by decide, by decide⟩, rfl⟩⟩

theorem witness_FetchWordIsRunNext :
    (decodeTableWord 64 3 = some .modpow ∧ isCommand .modpow = true) ∧
    (decodeTableWord 8 2 = some (.ack 2#64) ∧ isCommand (.ack 2#64) = false) := by decide

/-- The engine is BUSY with operands that meet each case of GCD, XGCD and MODINV in turn. -/
theorem witness_GcdOutcome :
    let s := flight 1 (-9223372036854775808) 0 0
    let t := flight 1 0 0 0
    let u := flight 1 0 (-1) 0
    let v := flight 1 (-12) 8 0
    (s.fsm = .busy ∧ s.latA.toInt = minInt) ∧ (t.fsm = .busy ∧ t.latA.toInt = 0 ∧ t.latB.toInt = 0) ∧
    (u.fsm = .busy ∧ u.latA.toInt.natAbs < u.latB.toInt.natAbs) ∧
    (v.fsm = .busy ∧ v.latB.toInt.natAbs ≤ v.latA.toInt.natAbs ∧ v.latB.toInt ≠ 0) := by decide

theorem witness_GcdIsGreatestCommonDivisor :
    ∃ s t : State, exec .gcd s = .next t ∧ t.err = false ∧ s.latA.toInt = -12 ∧ s.latB.toInt = 8 :=
  ⟨flight 1 (-12) 8 0, _, eq_next (s := State.reset) (by decide), by decide⟩

theorem witness_XgcdFollowsIteration : (flight 2 (-259) (-70) 0).fsm = .busy := by decide

theorem witness_XgcdBezout :
    (∃ s t : State, exec .xgcd s = .next t ∧ t.err = false ∧ s.latA.toInt = -259 ∧ s.latB.toInt = 70) ∧
    (∃ (a b x y : Nat) (s t : Int × Int), y ≠ 0 ∧ s.1 * a + s.2 * b = x ∧ t.1 * a + t.2 * b = y) ∧
    (∃ (a b x y g : Nat) (s t c : Int × Int), Pulverized x y s t g c ∧ s.1 * a + s.2 * b = x ∧
      t.1 * a + t.2 * b = y ∧ y ≠ 0) :=
  ⟨⟨flight 2 (-259) 70 0, _, eq_next (s := State.reset) (by decide), by decide⟩,
    ⟨259, 70, 259, 70, (1, 0), (0, 1), by decide⟩,
    ⟨7, 7, 7, 7, 7, (1, 0), (0, 1), _, .step 7 7 _ _ 7 _ (by decide) (.stop 7 _ _), by decide⟩⟩

theorem witness_XgcdCoefficientBound :
    ∃ s t : State, exec .xgcd s = .next t ∧ t.err = false ∧ s.latB.toInt = 0 :=
  ⟨flight 2 5 0 0, _, eq_next (s := State.reset) (by decide), by decide⟩

theorem witness_ModpowRunsTheLoop :
    (flight 3 2 (-1) 0).fsm = .busy ∧ (flight 3 2 3 0).fsm = .busy ∧ (flight 3 4 13 497).fsm = .busy := by decide

theorem witness_ModpowIsPower :
    let s := flight 3 5 0 1
    s.fsm = .busy ∧ 0 ≤ s.latB.toInt ∧ 0 < s.latC.toInt := by decide

theorem witness_ModinvOutcome :
    let s := flight 4 (-1) 1 0
    s.fsm = .busy ∧ 0 < s.latB.toInt ∧ Int.gcd s.latB.toInt s.latA.toInt = 1 := by decide

theorem witness_PrimeTdIsExact :
    (∃ s : State, s.fsm = .busy ∧ s.latA.toInt = 1 ∧ s.latA.toInt ≤ 1) ∧
    (∃ s : State, s.fsm = .busy ∧ s.latA.toInt = 2 ∧ 1 < s.latA.toInt ∧
      ∀ d : Int, 1 < d → d < s.latA.toInt → ¬ d ∣ s.latA.toInt) ∧
    (∃ s : State, s.fsm = .busy ∧ s.latA.toInt = 4 ∧ 2 < s.latA.toInt ∧ (2 : Int) ∣ s.latA.toInt ∧
      ∀ e : Int, 1 < e → e < 2 → ¬ e ∣ s.latA.toInt) := by
  refine ⟨⟨flight 5 1 0 0, by decide⟩, ⟨flight 5 2 0 0, by decide, by decide, by decide, fun d h1 h2 => ?_⟩,
    ⟨flight 5 4 0 0, by decide, by decide, by decide, by decide, fun e h1 h2 => ?_⟩⟩
  · have h : (flight 5 2 0 0).latA.toInt = 2 := by decide
    omega
  · omega

theorem witness_FermatWitnessOutcome :
    let s := flight 7 561 3 0
    s.fsm = .busy ∧ Int.gcd s.latB.toInt s.latA.toInt ≠ 1 := by decide

theorem witness_PrimeFermatOutcome :
    let s := flight 6 1 0 0
    let t := flight 6 2 0 0
    (s.fsm = .busy ∧ s.latA.toInt ≤ 1) ∧ (t.fsm = .busy ∧ 1 < t.latA.toInt) := by decide

/-- The tape (8) passes 9 in its one round; the tape (2, 3) fails 4 in its first. -/
theorem witness_EveryAdmissibleDrawIsTaken :
    (∃ (s : State) (d : Nat → Int), s.fsm = .busy ∧ 1 < s.latA.toInt ∧
      (∀ i, 1 ≤ i → i ≤ roundsRun 1#8 → 1 ≤ d i ∧ d i ≤ s.latA.toInt - 1) ∧
      s.draws = (List.range (roundsRun 1#8)).map (fun j => d (j + 1)) ∧
      ∀ i, 1 ≤ i → i ≤ roundsRun 1#8 → passes s.latA.toInt (d i)) ∧
    (∃ (s : State) (d : Nat → Int), s.fsm = .busy ∧ 1 < s.latA.toInt ∧
      (∀ i, 1 ≤ i → i ≤ roundsRun 2#8 → 1 ≤ d i ∧ d i ≤ s.latA.toInt - 1) ∧
      s.draws = (List.range (roundsRun 2#8)).map (fun j => d (j + 1)) ∧
      (∀ j, 1 ≤ j → j < 1 → passes s.latA.toInt (d j)) ∧ ¬ passes s.latA.toInt (d 1)) := by
  have h9 : (flight 0x106 9 0 0).latA.toInt = 9 := by decide
  have h4 : (flight 0x206 4 0 0).latA.toInt = 4 := by decide
  refine ⟨⟨{ flight 0x106 9 0 0 with draws := [8] }, fun _ => 8, rfl, by decide, fun i _ _ => ?_, by decide,
      fun i _ _ => ?_⟩,
    ⟨{ flight 0x206 4 0 0 with draws := [2, 3] }, fun i => i + 1, rfl, by decide, fun i h1 h2 => ?_, by decide,
      fun j h1 h2 => by omega, ?_⟩⟩
  · show (1 : Int) ≤ 8 ∧ (8 : Int) ≤ (flight 0x106 9 0 0).latA.toInt - 1
    rw [h9]; omega
  · show passes (flight 0x106 9 0 0).latA.toInt 8
    rw [h9]; show (8 : Int) ^ 8 % 9 = 1; norm_num
  · show (1 : Int) ≤ i + 1 ∧ (i : Int) + 1 ≤ (flight 0x206 4 0 0).latA.toInt - 1
    have : roundsRun 2#8 = 2 := by decide
    rw [h4]; omega
  · show ¬ passes (flight 0x206 4 0 0).latA.toInt ((1 : Nat) + 1)
    rw [h4]; show ¬ (2 : Int) ^ 3 % 4 = 1; norm_num

theorem witness_FermatRunReplays :
    ∃ s t : State, 1 < s.latA.toInt ∧ exec (.primeFermat 2#8) s = .next t ∧ t.res2 = 2#64 :=
  ⟨{ flight 0x206 341 0 0 with draws := [2, 3] }, _, by decide, eq_next (s := State.reset) (by decide), by decide⟩

theorem witness_FermatErrsOnOneSide :
    (∃ s : State, s.fsm = .busy ∧ Nat.Prime s.latA.toInt.toNat ∧ 1 ≤ s.latB.toInt ∧ s.latB.toInt ≤ s.latA.toInt - 1) ∧
    (∃ s : State, s.fsm = .busy ∧ 1 < s.latA.toInt ∧ s.draws = List.replicate (roundsRun 0#8) 1) := by
  refine ⟨⟨flight 7 97 96 0, rfl, ?_, by decide, by decide⟩,
    ⟨{ flight 6 15 0 0 with draws := List.replicate 50 1 }, rfl, by decide, rfl⟩⟩
  have : (flight 7 97 96 0).latA.toInt.toNat = 97 := by decide
  rw [this]; norm_num

theorem witness_IllegalWordCompletes :
    (¬ legalWord 0x00#64 ∧ ¬ legalWord 0x08#64 ∧ ¬ legalWord 0xFF#64 ∧ ¬ legalWord 0x10001#64 ∧ ¬ legalWord 0x101#64) ∧
    (flight 0 0 0 0).fsm = .busy :=
  ⟨by unfold legalWord; decide, rfl⟩

theorem witness_EveryCommandCompletes : isCommand .modpow = true ∧ (flight 3 0 0 0).fsm = .busy := by decide

theorem witness_IdleEngineHasNoStep : isCommand .gcd = true ∧ State.reset.fsm = .idle := by decide

theorem witness_CompletionFrame :
    (∃ s t : State, isCommand .gcd = true ∧ exec .gcd s = .next t ∧ ∀ r, Instr.gcd ≠ .primeFermat r) ∧
    (∃ s t : State, isCommand (.primeFermat 1#8) = true ∧ exec (.primeFermat 1#8) s = .next t) :=
  ⟨⟨flight 1 6 4 0, _, rfl, eq_next (s := State.reset) (by decide), by simp⟩,
    ⟨flight 0x106 0 0 0, _, rfl, eq_next (s := State.reset) (by decide)⟩⟩

theorem witness_ErrorLeavesNoResult :
    ∃ s t : State, isCommand .modinv = true ∧ exec .modinv s = .next t ∧ t.err = true :=
  ⟨flight 4 6 9 0, _, rfl, eq_next (s := State.reset) (by decide), by decide⟩

theorem witness_OutcomeReadsLatchesOnly :
    ∃ s t : State, s.fsm = .busy ∧ t.fsm = .busy ∧ s.latA = t.latA ∧ s.latB = t.latB ∧ s.latC = t.latC ∧
      s.draws = t.draws ∧ s.freeCount = t.freeCount ∧ s.opa ≠ t.opa ∧ s.ie ≠ t.ie :=
  ⟨flight 3 4 13 497, { flight 3 4 13 497 with opa := 1, ie := true }, by decide⟩

theorem witness_ResultsFitInt64 :
    ((1 : Word).toInt ≤ 1 ∧ (1 : Int) ≤ 1) ∧
    (∀ i, 1 ≤ i → i ≤ roundsRun 1#8 → (1 : Int) ≤ 1 ∧ (1 : Int) ≤ (2 : Word).toInt - 1) ∧
    gcdResult (5 : Word).toInt (0 : Word).toInt = .ok 5 0 0 ∧
    xgcdResult (-5 : Word).toInt (0 : Word).toInt = .ok (-1) 0 5 ∧
    modpowResult (2 : Word).toInt (10 : Word).toInt (1000 : Word).toInt = .ok 24 0 0 ∧
    modinvResult (8 : Word).toInt (15 : Word).toInt = .ok 2 0 0 ∧
    primeTdResult (4 : Word).toInt = .ok 0 2 0 ∧
    primeFermatResult (2 : Word).toInt (roundsRun 1#8) (fun _ => 1) = .ok 1 0 1 ∧
    fermatWitnessResult (9 : Word).toInt (2 : Word).toInt = .ok 0 4 0 :=
  ⟨by decide, fun _ _ _ => by decide, by decide, by decide, by decide, by decide, by decide, by decide, by decide⟩

theorem witness_StatusWriteClears :
    (0xA : Word).getLsbD 1 = true ∧ (flight 1 0 0 0).Inv ∧ (flight 1 0 0 0).fsm = .busy ∧
    nextIs { State.sends (flight 1 0 0 0) [write 0x10#8 0xA#64] with countdown := 1 } 0 64 0x10#8 (.write 0xA#64) :=
  ⟨by decide, by decide, by decide, by decide, by decide⟩

theorem witness_CtrlWriteSetsEnable :
    (1 : Word).getLsbD 1 = false ∧ (0 : Word).getLsbD 1 = false ∧
    nextIs (State.sends State.reset [write 0x18#8 1#64]) 0 64 0x18#8 (.write 1#64) :=
  ⟨by decide, by decide, by decide, by decide⟩

theorem witness_SrstResetsBlock :
    (3 : Word).getLsbD 1 = true ∧
    nextIs { State.sends (flight 5 7 0 0) [write 0x18#8 3#64] with countdown := 1 } 0 64 0x18#8 (.write 3#64) :=
  ⟨by decide, by decide, by decide⟩

theorem witness_ResetInputResetsBlock :
    ∃ s : State, s.engineTurn = false ∧ s.host.head? = some .resetInput ∧ s.fsm = .busy :=
  ⟨{ State.sends (flight 5 7 0 0) [.resetInput] with countdown := 1 }, by decide⟩

theorem witness_AcceptLatchesCommand :
    ∃ s : State, s.fsm = .idle ∧ nextIs s 0 64 0x08#8 (.write 0#64) :=
  ⟨State.sends State.reset [write 0x08#8 0#64], rfl, by decide, by decide⟩

theorem witness_BusyCmdWriteDropped :
    ∃ s : State, s.fsm = .busy ∧ nextIs s 0 64 0x08#8 (.write 1#64) :=
  ⟨{ State.sends (flight 3 2 10 1000) [write 0x08#8 1#64] with countdown := 1 }, rfl, by decide, by decide⟩

theorem witness_OperandWriteStores :
    nextIs (State.sends State.reset [write 0x20#8 5#64]) 0 64 0x20#8 (.write 5#64) ∧
    nextIs (State.sends State.reset [write 0x28#8 5#64]) 0 64 0x28#8 (.write 5#64) ∧
    nextIs (State.sends State.reset [write 0x30#8 5#64]) 0 64 0x30#8 (.write 5#64) :=
  ⟨⟨by decide, by decide⟩, ⟨by decide, by decide⟩, ⟨by decide, by decide⟩⟩

theorem witness_IgnoredWrites :
    ∀ off ∈ [0x00#8, 0x38#8, 0x40#8, 0x48#8, 0x50#8, 0x58#8, 0xF8#8],
      off.toNat % 8 = 0 ∧ (off.toNat ∈ [0x00, 0x38, 0x40, 0x48, 0x50] ∨ 0x58 ≤ off.toNat) ∧
      (State.sends State.reset [write off 5#64]).engineTurn = false ∧
      (State.sends State.reset [write off 5#64]).host.head? = some (.access ⟨0, 64, off, .write 5#64⟩) := by decide

theorem witness_ReadReturnsRegister :
    ∀ off ∈ [0x00#8, 0x08#8, 0x10#8, 0x18#8, 0x20#8, 0x28#8, 0x30#8, 0x38#8, 0x40#8, 0x48#8, 0x50#8, 0xF8#8],
      off.toNat % 8 = 0 ∧ (State.sends State.reset [read off]).engineTurn = false ∧
      (State.sends State.reset [read off]).host.head? = some (.access ⟨0, 64, off, .read⟩) := by decide

theorem witness_RefusedTransactionChangesNothing :
    (nextIs (State.sends State.reset [.access ⟨0, 32, 0x10#8, .read⟩]) 0 32 0x10#8 .read ∧ 32 ≠ 64) ∧
    (nextIs (State.sends State.reset [write 0x0C#8 1#64]) 0 64 0x0C#8 (.write 1#64) ∧
      (0x0C#8 : Offset).toNat % 8 ≠ 0) ∧
    ∃ s t : State, step s = .next t ∧ s.faults ≠ [] :=
  ⟨⟨⟨by decide, by decide⟩, by decide⟩, ⟨⟨by decide, by decide⟩, by decide⟩,
    ⟨{ State.sends State.reset [.resetInput] with faults := [.busError 0 32 0#8 .read] }, _,
      eq_next (s := State.reset) (by decide), by decide⟩⟩

theorem witness_FaultsAreNeverCleared :
    ∃ s t : State, step s = .next t ∧ s.faults = [] ∧ t.faults ≠ [] :=
  ⟨State.sends State.reset [.access ⟨0, 8, 0x10#8, .read⟩], _, eq_next (s := State.reset) (by decide), by decide⟩

theorem witness_MasterHasNoEffect :
    ∃ s : State, nextIs s 1 64 0x08#8 (.write 6#64) :=
  ⟨State.sends State.reset [.access ⟨1, 64, 0x08#8, .write 6#64⟩], by decide, by decide⟩

theorem witness_WaitPollsStatus :
    (∃ s : State, s.engineTurn = false ∧ s.host.head? = some (.wait 0) ∧ s.fsm = .idle) ∧
    (∃ s : State, s.engineTurn = false ∧ s.host.head? = some (.wait 0) ∧ s.fsm = .busy) :=
  ⟨⟨State.sends State.reset [.wait 0], by decide⟩,
    ⟨{ State.sends (flight 1 6 4 0) [.wait 0] with countdown := 1 }, by decide⟩⟩

theorem witness_IdleBlockWaits : State.reset.fsm = .idle ∧ State.reset.host = [] := by decide

theorem witness_ResultsChangeOnlyAtCompletionOrReset :
    (∃ s t : State, step s = .next t ∧ t.res0 ≠ s.res0 ∧ s.engineTurn = true) ∧
    (∃ s t : State, step s = .next t ∧ t.res0 ≠ s.res0 ∧ s.host = [.resetInput]) :=
  ⟨⟨flight 1 6 4 0, _, eq_next (s := State.reset) (by decide), by decide⟩,
    ⟨State.sends { State.reset with res0 := 1 } [.resetInput], _, eq_next (s := State.reset) (by decide), by decide⟩⟩

theorem witness_CmdChangesOnlyAtAcceptOrReset :
    (∃ s t : State, step s = .next t ∧ t.cmd ≠ s.cmd ∧ s.host = [write 0x08#8 6#64]) ∧
    (∃ s t : State, step s = .next t ∧ t.cmd ≠ s.cmd ∧ s.host = [write 0x18#8 2#64]) :=
  ⟨⟨State.sends { State.reset with latencies := [0] } [write 0x08#8 6#64], _, eq_next (s := State.reset) (by decide),
      by decide⟩,
    ⟨State.sends { State.reset with cmd := 1 } [write 0x18#8 2#64], _, eq_next (s := State.reset) (by decide),
      by decide⟩⟩

theorem witness_OverrunIsSticky :
    (∃ s t : State, step s = .next t ∧ s.ovr = false ∧ t.ovr = true) ∧
    (∃ s t : State, step s = .next t ∧ s.ovr = true ∧ t.ovr = false ∧ s.host = [write 0x10#8 8#64]) ∧
    (∃ s t : State, step s = .next t ∧ s.ovr = true ∧ t.ovr = false ∧ s.host = [.resetInput]) :=
  ⟨⟨{ State.sends (flight 3 2 10 1000) [write 0x08#8 1#64] with countdown := 1 }, _,
      eq_next (s := State.reset) (by decide), by decide⟩,
    ⟨State.sends { State.reset with ovr := true } [write 0x10#8 8#64], _, eq_next (s := State.reset) (by decide),
      by decide⟩,
    ⟨State.sends { State.reset with ovr := true } [.resetInput], _, eq_next (s := State.reset) (by decide), by decide⟩⟩

theorem witness_InterruptRisesOnlyByCompletionOrEnable :
    (∃ s t : State, step s = .next t ∧ s.irq = false ∧ t.irq = true ∧ s.engineTurn = true) ∧
    (∃ s t : State, step s = .next t ∧ s.irq = false ∧ t.irq = true ∧ s.host = [write 0x18#8 1#64]) :=
  ⟨⟨{ flight 1 6 4 0 with ie := true }, _, eq_next (s := State.reset) (by decide), by decide⟩,
    ⟨State.sends { State.reset with done := true } [write 0x18#8 1#64], _, eq_next (s := State.reset) (by decide),
      by decide⟩⟩

/-- irq falls by ACK, by an accept, by SRST, by the reset input and by DI. -/
theorem witness_InterruptFallsOnlyByAckAcceptResetOrDisable :
    ∀ op ∈ [write 0x10#8 2#64, write 0x08#8 1#64, write 0x18#8 2#64, HostOp.resetInput, write 0x18#8 0#64],
      let s := State.sends { State.reset with done := true, ie := true, latencies := [0] } [op]
      goesOn (step s) = true ∧ s.irq = true ∧ (after s).irq = false := by decide

theorem witness_OperandWriteKeepsCommandInFlight :
    (∃ s t : State, isCommand .gcd = true ∧ s.fsm = .busy ∧ nextIs s 0 64 0x20#8 (.write 9#64) ∧ step s = .next t) ∧
    (∃ s t : State, s.fsm = .idle ∧ nextIs s 0 64 0x08#8 (.write 1#64) ∧ step s = .next t) :=
  ⟨⟨{ State.sends (flight 1 6 4 0) [write 0x20#8 9#64] with countdown := 1 }, _, rfl, rfl, ⟨by decide, by decide⟩,
      eq_next (s := State.reset) (by decide)⟩,
    ⟨State.sends { State.reset with latencies := [0] } [write 0x08#8 1#64], _, rfl, ⟨by decide, by decide⟩,
      eq_next (s := State.reset) (by decide)⟩⟩

/-- Each clause at the offsets around the bytes it lets change. -/
theorem witness_WindowByteFrame :
    (∃ s t : State, exec .gcd s = .next t ∧ isCommand .gcd = true ∧
      ∀ off ∈ [0x0F#8, 0x18#8, 0x3F#8, 0x58#8], off.toNat / 8 ∉ [2, 8, 9, 10]) ∧
    (∃ s t : State, exec (.ack 2#64) s = .next t ∧ ∀ off ∈ [0x0F#8, 0x18#8], off.toNat / 8 ≠ 2) ∧
    (∃ s t : State, exec (.ei 1#64) s = .next t ∧ (Instr.ei 1#64).wellFormed = true ∧
      ∀ off ∈ [0x17#8, 0x20#8], off.toNat / 8 ≠ 3) :=
  ⟨⟨flight 1 6 4 0, _, eq_next (s := State.reset) (by decide), by decide⟩,
    ⟨State.reset, _, eq_next (s := State.reset) (by decide), by decide⟩,
    ⟨State.reset, _, eq_next (s := State.reset) (by decide), by decide⟩⟩

theorem witness_ByteLanesAreLittleEndian : 0 < 8 ∧ 7 < 8 := by decide

theorem witness_InvKeptByEveryStep : ∃ s t : State, s.Inv ∧ step s = .next t ∧ s.fsm = .busy :=
  ⟨flight 1 0 0 0, _, by decide, eq_next (s := State.reset) (by decide), by decide⟩

theorem witness_CommandInFlightCompletes :
    ∃ s : State, s.fsm = .busy ∧ (∀ op ∈ s.host.take s.countdown, op.resets = false) ∧ s.countdown = 2 ∧
      s.host = [write 0x20#8 9#64, .wait 0, .resetInput] :=
  ⟨{ State.sends (flight 1 6 4 0) [write 0x20#8 9#64, .wait 0, .resetInput] with countdown := 2 }, by decide⟩

theorem witness_GcdCallReturnsGcd :
    ∃ s : State, s.fsm = .idle ∧ nextIs s 0 64 0x08#8 (.write 1#64) ∧
      (∀ op ∈ s.host.tail.take s.nextLatency, op.resets = false) ∧ s.opa.toInt ≠ minInt ∧
      s.opb.toInt.natAbs ≤ s.opa.toInt.natAbs ∧ s.opa.toInt ≠ 0 :=
  ⟨State.sends { State.reset with opa := 1147, opb := 899, latencies := [1] } [write 0x08#8 1#64, .wait 0], by decide,
    ⟨by decide, by decide⟩, by decide, by decide, by decide, by decide⟩

theorem witness_CommandExpansionsIssueTheirCommand : State.reset.fsm = .idle := rfl

theorem witness_ControlExpansionsAct :
    State.reset.fsm = .idle ∧ ∃ s : State, s.fsm = .busy ∧ 0 < s.countdown :=
  ⟨rfl, { flight 1 6 4 0 with countdown := 1 }, by decide⟩

/-- The state that GCD 0, 0 leaves is reached from reset: an accept, then the completion with its error. -/
theorem witness_ReachedStatesMeetInv : ∃ s : State, Reached s ∧ s.err = true ∧ s.fsm = .idle := by
  let s0 : State := State.sends { State.reset with latencies := [0] } [write 0x08#8 0x01#64]
  have h0 : Reached s0 := .reset s0 (by decide)
  have h1 : Reached (after s0) :=
    .next s0 _ h0 (.inr ⟨write 0x08#8 0x01#64, by decide, by decide⟩) (eq_next (s := s0) (by decide))
  have h2 : Reached (after (after s0)) :=
    .next (after s0) _ h1 (.inl (by decide)) (eq_next (s := after s0) (by decide))
  exact ⟨_, h2, by decide, by decide⟩

end Sys2Proof.Tests
end

/-! # The scope's own statements: where the window lies (R6, R38) and that every result is an int64 (R8, R68) -/

namespace Sys2Proof.Machine

open Sys2Proof.Claims

/-! ### The window (R38) -/

/-- The platform chooses a page of the window's size, so BASE is aligned to it whichever page it is (R6). -/
theorem base_aligned : Config.base % 0x100 = 0 := by
  rw [Config.base, Config.windowSize]
  exact Nat.mul_mod_left Config.basePage 0x100

/-- Which addresses have an offset, and which offset it is (R38): eight bits hold every distance in the window. -/
theorem offsetOfAddress_eq_some_iff (addr : Nat) (off : Offset) :
    offsetOfAddress addr = some off ↔
      Config.base ≤ addr ∧ addr < Config.base + Config.windowSize ∧ addr = Config.base + off.toNat := by
  unfold offsetOfAddress Config.windowSize
  split
  · next h =>
    have hdist : (BitVec.ofNat 8 (addr - Config.base)).toNat = addr - Config.base := by
      rw [BitVec.toNat_ofNat]
      omega
    rw [Option.some.injEq, ← BitVec.toNat_inj, hdist]
    omega
  · next h =>
    simp only [reduceCtorEq, false_iff]
    omega

/-- Settles O52: the window is the aligned page at BASE, and an offset is the distance from BASE. -/
theorem windowAddresses : Obligations.WindowAddresses := by
  unfold Obligations.WindowAddresses
  refine ⟨base_aligned, fun addr off => ?_⟩
  rw [offsetOfAddress_eq_some_iff, Config.windowSize]
  omega

/-! ### Every result integer is an int64 (R8, R68) -/

/-- The results that a command returns are signed 64-bit integers; an error returns none. -/
def CmdResult.Fits : CmdResult → Prop
  | .ok r0 r1 r2 => inInt64 r0 = true ∧ inInt64 r1 = true ∧ inInt64 r2 = true
  | .raise _ => True

@[simp] theorem CmdResult.fits_ok (r0 r1 r2 : Int) :
    (CmdResult.ok r0 r1 r2).Fits ↔ inInt64 r0 = true ∧ inInt64 r1 = true ∧ inInt64 r2 = true := Iff.rfl

@[simp] theorem CmdResult.fits_raise (c : Cause) : (CmdResult.raise c).Fits := trivial

@[simp] theorem inInt64_zero : inInt64 0 = true := by decide

@[simp] theorem inInt64_one : inInt64 1 = true := by decide

/-- A nonnegative integer up to an int64 is an int64. -/
theorem inInt64_of_le {i m : Int} (hm : inInt64 m = true) (h0 : 0 ≤ i) (h : i ≤ m) : inInt64 i = true := by
  rw [inInt64_iff] at *
  omega

/-- What is no larger in size than an operand that passes OPERAND_MIN is an int64: `2^63` itself is ruled out. -/
theorem inInt64_of_natAbs_le {i a : Int} (ha : inInt64 a = true) (hmin : a ≠ int64Min) (h : i.natAbs ≤ a.natAbs) :
    inInt64 i = true := by
  rw [int64Min] at hmin
  rw [inInt64_iff] at *
  omega

theorem gcd_inInt64 {a b : Int} (ha : inInt64 a = true) (h : euclidError a b = none) :
    inInt64 (Int.gcd a b) = true := by
  obtain ⟨hmin, -, hboth, horder⟩ := euclidError_none.mp h
  exact inInt64_of_natAbs_le ha hmin (Nat.gcd_le_left _ (by omega))

theorem gcdResult_fits {a : Int} (b : Int) (ha : inInt64 a = true) : (gcdResult a b).Fits := by
  unfold gcdResult
  split
  · exact CmdResult.fits_raise _
  · next h =>
    rw [euclid_eq_gcd _ _ _ (Nat.lt_succ_self _)]
    exact ⟨gcd_inInt64 ha h, inInt64_zero, inInt64_zero⟩

/-- The bounds of R90 keep both coefficients of XGCD within the size of `a`. -/
theorem xgcdResult_fits {a : Int} (b : Int) (ha : inInt64 a = true) : (xgcdResult a b).Fits := by
  cases h : euclidError a b with
  | some c => simp [xgcdResult, h]
  | none =>
    obtain ⟨hmin, -, hboth, horder⟩ := euclidError_none.mp h
    obtain ⟨s0, s1, -, hres, -, hs0, hs1⟩ := xgcdResult_ok ha h
    have hdivb : b.natAbs / Int.gcd a b ≤ b.natAbs := Nat.div_le_self _ _
    have hdiva : a.natAbs / Int.gcd a b ≤ a.natAbs := Nat.div_le_self _ _
    rw [hres]
    exact ⟨inInt64_of_natAbs_le ha hmin (by omega), inInt64_of_natAbs_le ha hmin (hs1.trans hdiva),
      gcd_inInt64 ha h⟩

/-- A modular power is below its modulus (R92). -/
theorem powMod_inInt64 (k : Int) {e m : Int} (hm : inInt64 m = true) (hpos : 0 < m) (he : inInt64 e = true) :
    inInt64 (powMod k e m) = true := by
  rw [inInt64_iff] at he
  obtain ⟨h0, hlt⟩ := powMod_range k hpos (show e < 2 ^ 64 by omega)
  exact inInt64_of_le hm h0 hlt.le

theorem modpowResult_fits (k : Int) {e m : Int} (he : inInt64 e = true) (hm : inInt64 m = true) :
    (modpowResult k e m).Fits := by
  unfold modpowResult
  split_ifs with hneg hmod
  · exact CmdResult.fits_raise _
  · exact CmdResult.fits_raise _
  · simpa using powMod_inInt64 k hm (not_le.mp hmod) he

/-- MODINV brings the coefficient of `k` into `[0, m)` (R94). -/
theorem modinvResult_fits (k : Int) {m : Int} (hm : inInt64 m = true) : (modinvResult k m).Fits := by
  unfold modinvResult
  split_ifs with hmin hmod horder
  · exact CmdResult.fits_raise _
  · exact CmdResult.fits_raise _
  · exact CmdResult.fits_raise _
  · split
    · exact CmdResult.fits_raise _
    · next s0 s1 g _ =>
      split_ifs
      · exact CmdResult.fits_raise _
      · have hpos : 0 < m := not_le.mp hmod
        exact ⟨inInt64_of_le hm (Int.emod_nonneg s1 hpos.ne') (Int.emod_lt_of_pos s1 hpos).le, inInt64_zero,
          inInt64_zero⟩

/-- PRIME_TD's factor divides `n`, so it is at most `n` (R98). -/
theorem primeTdResult_fits {n : Int} (hn : inInt64 n = true) : (primeTdResult n).Fits := by
  unfold primeTdResult
  split_ifs with hsmall
  · exact CmdResult.fits_raise _
  · split
    · next d hd =>
      obtain ⟨-, -, hdvd, -⟩ := trialDivide_some _ _ hd
      have hle : d ≤ n.toNat := Nat.le_of_dvd (by omega) hdvd
      simpa using inInt64_of_le hn (Int.natCast_nonneg d) (by omega)
    · simp

/-- PRIME_FERMAT returns a witness it has drawn and a number of rounds (R100). -/
theorem primeFermatResult_fits {n : Int} {rounds : Nat} {draws : Nat → Int} (hn : inInt64 n = true)
    (hrounds : inInt64 rounds = true)
    (hdraws : (∀ i, 1 ≤ i → i ≤ rounds → 1 ≤ draws i ∧ draws i ≤ n - 1) ∨ n ≤ 1) :
    (primeFermatResult n rounds draws).Fits := by
  unfold primeFermatResult
  split_ifs with hsmall
  · exact CmdResult.fits_raise _
  · split
    · next k i hfail =>
      obtain ⟨hfirst, hlast, rfl, -⟩ := (fermatRounds_some _ _).mp hfail
      obtain ⟨hlow, hhigh⟩ := hdraws.resolve_right hsmall i hfirst (by omega)
      have hk : inInt64 (draws i) = true := inInt64_of_le hn (by omega) (by omega)
      have hi : inInt64 (i : Int) = true := inInt64_of_le hrounds (by omega) (by omega)
      simp [hk, hi]
    · simp [hrounds]

theorem fermatWitnessResult_fits {n : Int} (k : Int) (hn : inInt64 n = true) :
    (fermatWitnessResult n k).Fits := by
  unfold fermatWitnessResult
  split_ifs with hsmall hrange hpass
  · exact CmdResult.fits_raise _
  · exact CmdResult.fits_raise _
  all_goals
    have hexp : inInt64 (n - 1) = true := inInt64_of_le hn (by omega) (by omega)
    simpa using powMod_inInt64 k hn (by omega) hexp

/-- A ROUNDS field selects at most 255 rounds (R59). -/
theorem roundsRun_inInt64 (r : BitVec 8) : inInt64 (roundsRun r) = true := by
  have hlt : r.toNat < 256 := r.isLt
  rw [inInt64_iff, roundsRun]
  split_ifs <;> omega

/-- The range that the statements write is the model's int64 range (R5). -/
theorem inInt64_iff_minInt (i : Int) : inInt64 i = true ↔ minInt ≤ i ∧ i < -minInt := by
  rw [inInt64_iff, minInt]
  omega

/-- Settles O28, command by command: each result is a gcd, a checked coefficient, a residue, a factor, a witness or a
round count. -/
theorem resultsFitInt64 : Obligations.ResultsFitInt64 := by
  unfold Obligations.ResultsFitInt64
  intro wa wb wc r draws r0 r1 r2 hdraws hcases
  have ha : inInt64 wa.toInt = true := inInt64_int64 wa
  have hb : inInt64 wb.toInt = true := inInt64_int64 wb
  have hc : inInt64 wc.toInt = true := inInt64_int64 wc
  have hfits : (CmdResult.ok r0 r1 r2).Fits := by
    rcases hcases with h | h | h | h | h | h | h <;> rw [← h]
    · exact gcdResult_fits _ ha
    · exact xgcdResult_fits _ ha
    · exact modpowResult_fits _ hb hc
    · exact modinvResult_fits _ hb
    · exact primeTdResult_fits ha
    · exact primeFermatResult_fits ha (roundsRun_inInt64 r) hdraws
    · exact fermatWitnessResult_fits _ ha
  simpa only [CmdResult.fits_ok, inInt64_iff_minInt] using hfits

end Sys2Proof.Machine

/-! # The state of the block: what a step does to its registers (10_state.md) -/

namespace Sys2Proof.Machine

open Sys2Proof.Claims

/-! ### What one step does to the registers

A step of the machine is one of seven events of the block. `step_blockEvent` says so once, and the rules about whole
steps below are case analyses of it. -/

/-- From `s` to `t` the block keeps all it holds but OPA, OPB and OPC. -/
structure KeepsRegisters (s t : State) : Prop where
  cmd : t.cmd = s.cmd
  done : t.done = s.done
  err : t.err = s.err
  ovr : t.ovr = s.ovr
  errcode : t.errcode = s.errcode
  errdetail : t.errdetail = s.errdetail
  ie : t.ie = s.ie
  res0 : t.res0 = s.res0
  res1 : t.res1 = s.res1
  res2 : t.res2 = s.res2
  fsm : t.fsm = s.fsm
  latCmd : t.latCmd = s.latCmd
  latA : t.latA = s.latA
  latB : t.latB = s.latB
  latC : t.latC = s.latC

/-- The events of the block in one step from `s` to `t`, each with the operation that makes it. -/
inductive BlockEvent (s t : State) : Prop where
  /-- The completion of the command in flight (R73). -/
  | completion (r : CmdResult) (k : Nat) (hturn : s.engineTurn = true) (hbusy : s.fsm = .busy)
      (ht : t = (s.afterDraws k).finish r)
  /-- A read, a poll, a refused transaction, an ignored write or an operand write (R40, R78 to R80). -/
  | quiet (hkeep : KeepsRegisters s t)
  /-- A CMD write that is accepted (R71). -/
  | accept (m : Nat) (w : Word) (hnext : nextIs s m 64 0x08#8 (.write w)) (hidle : s.fsm = .idle)
      (ht : t = (s.popHost.respond m .written).accept w)
  /-- A CMD write that is dropped (R72). -/
  | drop (m : Nat) (w : Word) (hnext : nextIs s m 64 0x08#8 (.write w)) (hbusy : s.fsm = .busy)
      (ht : t = (s.popHost.respond m .written).drop)
  /-- A STATUS write (R75). -/
  | statusWrite (m : Nat) (w : Word) (hnext : nextIs s m 64 0x10#8 (.write w))
      (ht : t = (s.popHost.respond m .written).writeStatus w)
  /-- A CTRL write that does not reset (R76). -/
  | enableWrite (m : Nat) (w : Word) (hnext : nextIs s m 64 0x18#8 (.write w)) (hbit1 : w.getLsbD 1 = false)
      (ht : t = { s.popHost.respond m .written with ie := w.getLsbD 0 })
  /-- The reset input, or SRST, which the bus answers (R77, R122). -/
  | reset (u : State) (hreset : resetNext s) (hu : u = s.popHost ∨ ∃ m, u = s.popHost.respond m .written)
      (ht : t = u.blockReset)

/-- A poll answers, counts as a host operation and may leave the queue; nothing else changes (R64). -/
theorem State.pollWait_eq (s : State) (m : Nat) :
    ∃ host, s.pollWait m =
      { s with host, countdown := s.countdown - 1, responses := (m, .data s.statusWord) :: s.responses } := by
  unfold State.pollWait
  split
  · exact ⟨s.host, rfl⟩
  · exact ⟨s.host.tail, rfl⟩

/-- The block admits the transactions of 64 bits at a multiple of 8 (R39). -/
theorem Transaction.admitted_iff (x : Transaction) : x.admitted = true ↔ x.width = 64 ∧ x.off.toNat % 8 = 0 := by
  rw [Transaction.admitted, Bool.and_eq_true, decide_eq_true_eq, decide_eq_true_eq, Config.busDataWidth]

/-- A transaction at the head of the queue that is an admitted write is the next event. -/
theorem nextIs_of_admitted_write {s : State} {x : Transaction} {w : Word} {rest : List HostOp}
    (hturn : s.engineTurn = false) (hhost : s.host = .access x :: rest) (hadm : x.admitted = true)
    (hacc : x.access = .write w) : nextIs s x.master 64 x.off (.write w) := by
  obtain ⟨hwidth, -⟩ := x.admitted_iff.mp hadm
  exact ⟨hturn, by rw [hhost, ← hwidth, ← hacc]; rfl⟩

/-- The event of an admitted write, by the register it goes to (R45). -/
theorem write_blockEvent {s : State} {x : Transaction} {w : Word} {rest : List HostOp}
    (hturn : s.engineTurn = false) (hhost : s.host = .access x :: rest) (hadm : x.admitted = true)
    (hacc : x.access = .write w) : BlockEvent s ((s.popHost.respond x.master .written).writeOffset x.off w) := by
  have hnext := nextIs_of_admitted_write hturn hhost hadm hacc
  rcases (s.popHost.respond x.master .written).writeOffset_cases x.off w with
    h | h | h | h | ⟨hoff, h⟩ | ⟨hoff, h⟩ | ⟨hoff, h⟩ <;> rw [h]
  iterate 4 exact .quiet (by constructor <;> rfl)
  all_goals rw [hoff] at hnext
  · cases hfsm : s.fsm with
    | idle => exact .accept x.master w hnext hfsm (State.issue_of_idle w hfsm)
    | busy => exact .drop x.master w hnext hfsm (State.issue_of_busy w hfsm)
  · exact .statusWrite x.master w hnext rfl
  · cases hbit1 : w.getLsbD 1 with
    | false => exact .enableWrite x.master w hnext hbit1 (State.writeCtrl_of_not_bit1 _ hbit1)
    | true =>
      have hresets : (HostOp.access x).resets = true := by simp [HostOp.resets, hacc, hadm, hoff, hbit1]
      exact .reset _ ⟨hturn, _, by rw [hhost]; rfl, hresets⟩ (.inr ⟨x.master, rfl⟩) (State.writeCtrl_of_bit1 _ hbit1)

/-- The event of a host transaction (R39, R40, R45, R80). -/
theorem transact_blockEvent {s : State} {x : Transaction} {rest : List HostOp} (hturn : s.engineTurn = false)
    (hhost : s.host = .access x :: rest) : BlockEvent s (s.popHost.transact x) := by
  rcases s.popHost.transact_cases x with ⟨-, h⟩ | ⟨-, -, h⟩ | ⟨w, hadm, hacc, h⟩ <;> rw [h]
  · exact .quiet (by constructor <;> rfl)
  · exact .quiet (by constructor <;> rfl)
  · exact write_blockEvent hturn hhost hadm hacc

/-- What a step that goes on does to the block: one of the seven events. -/
theorem step_blockEvent {s t : State} (h : step s = .next t) : BlockEvent s t := by
  rcases step_cases h with ⟨hturn, hbusy, r, k, ht⟩ |
    ⟨hturn, ⟨x, rest, hhost, rfl⟩ | ⟨m, rest, -, rfl⟩ | ⟨rest, hhost, ht⟩⟩
  · exact .completion r k hturn hbusy ht
  · exact transact_blockEvent hturn hhost
  · obtain ⟨host, ht⟩ := s.pollWait_eq m
    rw [ht]
    exact .quiet (by constructor <;> rfl)
  · exact .reset _ ⟨hturn, .resetInput, by rw [hhost]; rfl, rfl⟩ (.inl rfl) ht

/-! ### What a completion keeps (R73), field by field -/

section
variable (s : State) (r : CmdResult)

@[simp] theorem State.finish_cmd : (s.finish r).cmd = s.cmd := by cases r <;> rfl
@[simp] theorem State.finish_ovr : (s.finish r).ovr = s.ovr := by cases r <;> rfl
@[simp] theorem State.finish_ie : (s.finish r).ie = s.ie := by cases r <;> rfl
@[simp] theorem State.finish_faults : (s.finish r).faults = s.faults := by cases r <;> rfl
@[simp] theorem State.finish_draws : (s.finish r).draws = s.draws := by cases r <;> rfl
@[simp] theorem State.finish_freeCount : (s.finish r).freeCount = s.freeCount := by cases r <;> rfl

end

/-! ### The invariant of the registers -/

theorem legalErrorPair_zero : legalErrorPair 0#4 0#8 = true := by decide

theorem KeepsRegisters.inv {s t : State} (h : KeepsRegisters s t) (hs : s.Inv) : t.Inv := by
  simpa only [State.Inv, h.done, h.fsm, h.err, h.errcode, h.errdetail, h.res0, h.res1, h.res2, h.latCmd, h.cmd]
    using hs

/-- A completion leaves the invariant from any state: it writes every field the invariant speaks of but the command
latch, which is tied to CMD only while BUSY (R73, R74). -/
theorem State.finish_inv (s : State) (r : CmdResult) : (s.finish r).Inv := by
  cases r with
  | ok r0 r1 r2 => simp [State.Inv, legalErrorPair_zero]
  | raise c => simp [State.Inv, legalErrorPair_cause, Cause.code_ne_zero]

theorem State.accept_inv (s : State) (w : Word) : (s.accept w).Inv := by
  simp [State.Inv, legalErrorPair_zero]

theorem State.blockReset_inv (s : State) : s.blockReset.Inv := by
  simp [State.Inv, legalErrorPair_zero]

theorem State.writeStatus_inv {s : State} (w : Word) (hs : s.Inv) : (s.writeStatus w).Inv := by
  obtain ⟨hdone, hrest⟩ := hs
  exact ⟨fun h => hdone (Bool.and_eq_true_iff.mp h).1, hrest⟩

/-- The invariant is kept by each event of the block: a completion, an accept and a reset establish it, the others
change nothing it speaks of but a DONE that falls. -/
theorem BlockEvent.inv {s t : State} (h : BlockEvent s t) (hs : s.Inv) : t.Inv := by
  cases h with
  | completion r k _ _ ht => exact ht ▸ State.finish_inv _ r
  | quiet hkeep => exact hkeep.inv hs
  | accept m w _ _ ht => exact ht ▸ State.accept_inv _ w
  | drop m w _ _ ht => exact ht ▸ hs
  | statusWrite m w _ ht => exact ht ▸ State.writeStatus_inv w hs
  | enableWrite m w _ _ ht => exact ht ▸ hs
  | reset u _ _ ht => exact ht ▸ u.blockReset_inv

/-- Settles O54: each event of the block keeps the invariant. -/
theorem invKeptByEveryStep : Obligations.InvKeptByEveryStep := by
  unfold Obligations.InvKeptByEveryStep
  intro s t hs h
  exact (step_blockEvent h).inv hs

/-! ### What is reached from reset (R126) -/

theorem State.inv_of_isReset {s : State} (h : s.isReset) : s.Inv := by
  rw [h]
  simp [State.Inv, State.reset, legalErrorPair_zero]

theorem State.faults_of_isReset {s : State} (h : s.isReset) : s.faults = [] := by
  rw [h]
  rfl

theorem State.writeOffset_faults (s : State) (off : Offset) (w : Word) : (s.writeOffset off w).faults = s.faults := by
  rcases s.writeOffset_cases off w with h | h | h | h | ⟨-, h⟩ | ⟨-, h⟩ | ⟨-, h⟩
  iterate 4 · rw [h]
  · cases hfsm : s.fsm with
    | idle => rw [h, State.issue_of_idle w hfsm, State.accept_faults]
    | busy => rw [h, State.issue_of_busy w hfsm, State.drop_faults]
  · rw [h, State.writeStatus_faults]
  · cases hbit1 : w.getLsbD 1 with
    | false => rw [h, State.writeCtrl_of_not_bit1 s hbit1]
    | true => rw [h, State.writeCtrl_of_bit1 s hbit1, State.blockReset_faults]

/-- Only a refused transaction is recorded as a fault (R40, R121). -/
theorem State.transact_faults_of_admitted (s : State) {x : Transaction} (h : x.admitted = true) :
    (s.transact x).faults = s.faults := by
  rcases s.transact_cases x with ⟨hrefused, -⟩ | ⟨-, -, ht⟩ | ⟨w, -, -, ht⟩
  · simp [h] at hrefused
  · rw [ht, State.respond_faults]
  · rw [ht, State.writeOffset_faults, State.respond_faults]

/-- A completion or an admitted host operation records no fault (R40, R121). -/
theorem step_faults_of_admitted {s t : State}
    (hadm : s.engineTurn = true ∨ ∃ op, s.host.head? = some op ∧ op.admitted = true) (h : step s = .next t) :
    t.faults = s.faults := by
  rcases step_cases h with ⟨-, -, r, k, rfl⟩ |
    ⟨hturn, ⟨x, rest, hhost, rfl⟩ | ⟨m, rest, -, rfl⟩ | ⟨rest, -, rfl⟩⟩
  · rw [State.finish_faults, State.afterDraws_faults]
  · have hx : x.admitted = true := by simpa [hturn, hhost, HostOp.admitted] using hadm
    rw [State.transact_faults_of_admitted _ hx, State.popHost_faults]
  · obtain ⟨host, ht⟩ := s.pollWait_eq m
    rw [ht]
  · rfl

/-- Settles O59: reset establishes the invariant and the empty fault set, and every admitted step keeps both. -/
theorem reachedStatesMeetInv : Obligations.ReachedStatesMeetInv := by
  unfold Obligations.ReachedStatesMeetInv
  intro s hs
  refine Reached.invariant (P := fun s => s.Inv ∧ s.faults = []) ?_ ?_ ?_ hs
  · exact fun s h => ⟨State.inv_of_isReset h, State.faults_of_isReset h⟩
  · rintro s t ⟨hinv, hfaults⟩ hadm h
    exact ⟨(step_blockEvent h).inv hinv, (step_faults_of_admitted hadm h).trans hfaults⟩
  · exact fun s _ _ _ _ _ _ h => h

/-! ### Which events change a register -/

/-- Settles O44: of the events only a completion and a reset touch the results. -/
theorem resultsChangeOnlyAtCompletionOrReset : Obligations.ResultsChangeOnlyAtCompletionOrReset := by
  unfold Obligations.ResultsChangeOnlyAtCompletionOrReset
  intro s t h
  cases step_blockEvent h with
  | completion _ _ hturn _ _ => exact .inl hturn
  | reset _ hreset _ _ => exact .inr (.inl hreset)
  | quiet hkeep => exact .inr (.inr ⟨hkeep.res0, hkeep.res1, hkeep.res2⟩)
  | accept _ _ _ _ ht | drop _ _ _ _ ht | statusWrite _ _ _ ht | enableWrite _ _ _ _ ht =>
    subst ht
    exact .inr (.inr ⟨rfl, rfl, rfl⟩)

/-- Settles O45: an accept takes the written word, a reset is allowed, and no other event writes CMD. -/
theorem cmdChangesOnlyAtAcceptOrReset : Obligations.CmdChangesOnlyAtAcceptOrReset := by
  unfold Obligations.CmdChangesOnlyAtAcceptOrReset
  intro s t h
  cases step_blockEvent h with
  | completion r k _ _ ht => exact .inl (by rw [ht, State.finish_cmd, State.afterDraws_cmd])
  | quiet hkeep => exact .inl hkeep.cmd
  | accept m w hnext hidle ht => exact .inr (.inr ⟨hidle, m, w, hnext, by rw [ht, State.accept_cmd]⟩)
  | reset _ hreset _ _ => exact .inr (.inl hreset)
  | drop _ _ _ _ ht | statusWrite _ _ _ ht | enableWrite _ _ _ _ ht => exact .inl (by rw [ht]; rfl)

/-- An event that keeps a Boolean register neither raises nor lowers it. -/
theorem no_edge_of_eq {b b' : Bool} {rise fall : Prop} (h : b' = b) :
    (b = false → b' = true → rise) ∧ (b = true → b' = false → fall) := by
  subst h
  cases b' <;> simp

/-- Settles O46: a drop is the one event that can raise OVR, a STATUS write and a reset the two that can lower it. -/
theorem overrunIsSticky : Obligations.OverrunIsSticky := by
  unfold Obligations.OverrunIsSticky
  intro s t h
  cases step_blockEvent h with
  | completion r k _ _ ht => exact no_edge_of_eq (by rw [ht, State.finish_ovr, State.afterDraws_ovr])
  | quiet hkeep => exact no_edge_of_eq hkeep.ovr
  | accept _ _ _ _ ht | enableWrite _ _ _ _ ht => exact no_edge_of_eq (by rw [ht]; rfl)
  | drop m w hnext hbusy ht => exact ⟨fun _ _ => ⟨hbusy, m, w, hnext⟩, fun _ hfall => by simp [ht] at hfall⟩
  | statusWrite m w hnext ht =>
    subst ht
    refine ⟨fun hs hrise => by simp [hs] at hrise, fun hs hfall => .inr ⟨m, w, hnext, ?_⟩⟩
    simpa [hs] using hfall
  | reset u hreset _ ht => exact ⟨fun _ hrise => by simp [ht] at hrise, fun _ _ => .inl hreset⟩

theorem State.irq_eq_true_iff (s : State) : s.irq = true ↔ s.ie = true ∧ s.done = true := by
  simp [State.irq]

/-- Settles O47: irq is IE AND DONE, only a completion raises DONE, and only a CTRL write raises IE. -/
theorem interruptRisesOnlyByCompletionOrEnable : Obligations.InterruptRisesOnlyByCompletionOrEnable := by
  unfold Obligations.InterruptRisesOnlyByCompletionOrEnable
  intro s t h hlow hhigh
  obtain ⟨hie, hdone⟩ := t.irq_eq_true_iff.mp hhigh
  have hnot : ¬ (s.ie = true ∧ s.done = true) := fun hs => by simp [s.irq_eq_true_iff.mpr hs] at hlow
  cases step_blockEvent h with
  | completion r k hturn _ ht => exact .inl ⟨hturn, by simpa [ht] using hie⟩
  | quiet hkeep => exact absurd ⟨hkeep.ie ▸ hie, hkeep.done ▸ hdone⟩ hnot
  | accept _ _ _ _ ht | reset _ _ _ ht => simp [ht] at hdone
  | drop _ _ _ _ ht =>
    subst ht
    exact absurd ⟨hie, hdone⟩ hnot
  | statusWrite m w _ ht =>
    subst ht
    exact absurd ⟨hie, (Bool.and_eq_true_iff.mp hdone).1⟩ hnot
  | enableWrite m w hnext hbit1 ht =>
    subst ht
    exact .inr ⟨hdone, m, w, hnext, hbit1, hie⟩

/-! ### What a command reads and what its completion leaves (R68, R73) -/

/-- A command other than PRIME_FERMAT completes with a function of its latched operands (R68). -/
theorem exec_eq_complete_operands {i : Instr} (hc : isCommand i = true) (hf : ∀ r, i ≠ .primeFermat r) :
    ∃ f : Int → Int → Int → CmdResult, ∀ s : State, exec i s = complete (f s.a s.b s.c) s := by
  cases i with
  | gcd => exact ⟨fun a b _ => gcdResult a b, fun _ => rfl⟩
  | xgcd => exact ⟨fun a b _ => xgcdResult a b, fun _ => rfl⟩
  | modpow => exact ⟨modpowResult, fun _ => rfl⟩
  | modinv => exact ⟨fun a b _ => modinvResult a b, fun _ => rfl⟩
  | primeTd => exact ⟨fun a _ _ => primeTdResult a, fun _ => rfl⟩
  | fermatWitness => exact ⟨fun a b _ => fermatWitnessResult a b, fun _ => rfl⟩
  | illegal w => exact ⟨fun _ _ _ => .raise (illegalCause w), fun _ => rfl⟩
  | primeFermat r => exact absurd rfl (hf r)
  | ack | clrovr | ei | di | srst => simp [isCommand] at hc

/-- PRIME_FERMAT completes with its result on the latched operand and the witness source, after the draws used. -/
theorem exec_primeFermat (r : BitVec 8) (s : State) :
    exec (.primeFermat r) s =
      complete (primeFermatResult s.a (roundCount r) (s.draw s.a))
        (s.afterDraws (drawsUsed (primeFermatResult s.a (roundCount r) (s.draw s.a)))) := rfl

/-- The witnesses are a function of the tape and of the count of free values used. -/
theorem State.draw_congr {s t : State} (hdraws : s.draws = t.draws) (hcount : s.freeCount = t.freeCount) :
    s.draw = t.draw := by
  funext n i
  simp only [State.draw, hdraws, hcount]

/-- What a completion shows the host depends on the command's result alone. -/
theorem sameOutcome_finish (s t : State) (r : CmdResult) : sameOutcome (s.finish r) (t.finish r) := by
  cases r <;> exact ⟨rfl, rfl, rfl, rfl, rfl, rfl⟩

/-- Two BUSY states that complete with the same result show the host the same outcome. -/
theorem sameOutcome_of_complete {i : Instr} {s t s' t' : State} {r : CmdResult} (hs' : s'.fsm = .busy)
    (ht' : t'.fsm = .busy) (hs : exec i s = complete r s') (ht : exec i t = complete r t') :
    ∃ u v : State, exec i s = .next u ∧ exec i t = .next v ∧ sameOutcome u v :=
  ⟨s'.finish r, t'.finish r, hs.trans (complete_of_busy r hs'), ht.trans (complete_of_busy r ht'),
    sameOutcome_finish s' t' r⟩

/-- Settles O27: the result is a function of the operands, and for PRIME_FERMAT of the draws too. -/
theorem outcomeReadsLatchesOnly : Obligations.OutcomeReadsLatchesOnly := by
  unfold Obligations.OutcomeReadsLatchesOnly
  intro i s t hc hs ht hA hB hC hdraws
  have ha : s.a = t.a := congrArg int64 hA
  have hb : s.b = t.b := congrArg int64 hB
  have hcc : s.c = t.c := congrArg int64 hC
  by_cases hp : ∃ r, i = .primeFermat r
  · obtain ⟨r, rfl⟩ := hp
    obtain ⟨htape, hcount⟩ := hdraws ⟨r, rfl⟩
    exact sameOutcome_of_complete (s' := s.afterDraws _) (t' := t.afterDraws _) hs ht (exec_primeFermat r s)
      (by rw [ha, State.draw_congr htape hcount]; exact exec_primeFermat r t)
  · obtain ⟨f, hf⟩ := exec_eq_complete_operands hc (fun r hr => hp ⟨r, hr⟩)
    exact sameOutcome_of_complete hs ht (hf s) (by rw [ha, hb, hcc]; exact hf t)

/-- Settles O25: a completion writes results, error fields, DONE and the engine state, and only PRIME_FERMAT draws. -/
theorem completionFrame : Obligations.CompletionFrame := by
  unfold Obligations.CompletionFrame
  intro i s t hc h
  obtain ⟨r, k, hexec⟩ := exec_command hc s
  obtain ⟨-, rfl⟩ := complete_next (hexec.symm.trans h)
  obtain ⟨-, -, hcmd, hovr, hie, hopa, hopb, hopc, hlatCmd, hlatA, hlatB, hlatC, hfaults, hhost, hresp, hcount, hlat,
    -, -⟩ := (s.afterDraws k).finish_frame r
  refine ⟨hovr, hie, hcmd, hopa, hopb, hopc, hlatCmd, hlatA, hlatB, hlatC, hfaults, hhost, hresp, hcount, hlat,
    fun hf => ?_⟩
  obtain ⟨f, hf⟩ := exec_eq_complete_operands hc hf
  obtain ⟨-, ht⟩ := complete_next ((hf s).symm.trans h)
  rw [ht]
  exact ⟨State.finish_draws s _, State.finish_freeCount s _⟩

/-! ### PRIME_FERMAT on a given witness tape (R100, R101) -/

/-- The model's round count is the spec's (R59). -/
theorem roundCount_eq_roundsRun (r : BitVec 8) : roundCount r = roundsRun r := by
  simp only [roundCount, roundsRun, Config.defaultRounds, ← BitVec.toNat_inj, BitVec.toNat_ofNat, Nat.zero_mod]

/-- A round of the model passes exactly when the spec's does (R92, R100). -/
theorem powMod_eq_one_iff_passes {n : Int} (hn : inInt64 n = true) (h1 : 1 < n) (k : Int) :
    powMod k (n - 1) n = 1 ↔ passes n k := by
  rw [inInt64_iff] at hn
  rw [powMod_eq k (by omega) (by omega), passes]

theorem primeFermatResult_of_all_pass {n : Int} {rounds : Nat} {draws : Nat → Int} (h1 : 1 < n)
    (hpass : ∀ j, 1 ≤ j → j ≤ rounds → powMod (draws j) (n - 1) n = 1) :
    primeFermatResult n rounds draws = .ok 1 0 rounds := by
  have hnone : fermatRounds n draws rounds 1 = none :=
    (fermatRounds_none _ _).mpr fun j hj hlt => hpass j hj (by omega)
  simp only [primeFermatResult, not_le.mpr h1, if_false, hnone]

theorem primeFermatResult_of_first_failure {n : Int} {rounds i : Nat} {draws : Nat → Int} (h1 : 1 < n)
    (hi : 1 ≤ i) (hle : i ≤ rounds) (hpass : ∀ j, 1 ≤ j → j < i → powMod (draws j) (n - 1) n = 1)
    (hfail : powMod (draws i) (n - 1) n ≠ 1) :
    primeFermatResult n rounds draws = .ok 0 (draws i) i := by
  have hsome : fermatRounds n draws rounds 1 = some (draws i, i) :=
    (fermatRounds_some _ _).mpr ⟨hi, by omega, rfl, hfail, hpass⟩
  simp only [primeFermatResult, not_le.mpr h1, if_false, hsome]

/-- A PRIME_FERMAT that ends at round `k` has used up `k` draws (R32, R100). -/
theorem exec_primeFermat_of_ok {s : State} {r : BitVec 8} {r0 r1 : Int} {k : Nat} (hbusy : s.fsm = .busy)
    (h : primeFermatResult s.a (roundCount r) (s.draw s.a) = .ok r0 r1 k) :
    exec (.primeFermat r) s =
      .next (succeeded (afterRounds s k) (BitVec.ofInt 64 r0) (BitVec.ofInt 64 r1) (BitVec.ofNat 64 k)) := by
  rw [exec_primeFermat, h, ← BitVec.ofInt_natCast]
  exact complete_of_busy (s := s.afterDraws k) _ hbusy

/-- Round `i` draws the `i`-th entry of a tape of admissible witnesses (log 4). -/
theorem draw_of_range_tape {s : State} {n : Int} {rounds i : Nat} {d : Nat → Int}
    (htape : s.draws = (List.range rounds).map (fun j => d (j + 1))) (hi : 1 ≤ i) (hle : i ≤ rounds)
    (hlow : 1 ≤ d i) (hhigh : d i ≤ n - 1) : s.draw n i = d i := by
  have hentry : s.draws[i - 1]? = some (d i) := by
    simp [htape, List.getElem?_range (show i - 1 < rounds by omega), Nat.sub_add_cancel hi]
  exact draw_of_tape hentry hlow hhigh

/-- Settles O19: on a tape of admissible witnesses the rounds run on exactly its entries. -/
theorem everyAdmissibleDrawIsTaken : Obligations.EveryAdmissibleDrawIsTaken := by
  unfold Obligations.EveryAdmissibleDrawIsTaken
  refine ⟨fun s n i hn => draw_range s hn i, fun s r d hbusy h1 hrange htape => ?_⟩
  have hround : ∀ j, 1 ≤ j → j ≤ roundsRun r →
      (powMod (s.draw s.a j) (s.a - 1) s.a = 1 ↔ passes s.latA.toInt (d j)) := fun j hj hle => by
    obtain ⟨hlow, hhigh⟩ := hrange j hj hle
    rw [draw_of_range_tape (n := s.a) htape hj hle hlow hhigh]
    exact powMod_eq_one_iff_passes (inInt64_int64 s.latA) h1 (d j)
  refine ⟨fun hpass => ?_, fun i hi hle hpass hfail => ?_⟩
  · have hres : primeFermatResult s.a (roundCount r) (s.draw s.a) = .ok 1 0 (roundsRun r) := by
      rw [roundCount_eq_roundsRun]
      exact primeFermatResult_of_all_pass h1 fun j hj hle => (hround j hj hle).mpr (hpass j hj hle)
    exact exec_primeFermat_of_ok hbusy hres
  · have hres : primeFermatResult s.a (roundCount r) (s.draw s.a) = .ok 0 (d i) i := by
      obtain ⟨hlow, hhigh⟩ := hrange i hi hle
      rw [roundCount_eq_roundsRun, ← draw_of_range_tape (n := s.a) htape hi hle hlow hhigh]
      exact primeFermatResult_of_first_failure h1 hi hle
        (fun j hj hlt => (hround j hj (by omega)).mpr (hpass j hj hlt)) (mt (hround i hi hle).mp hfail)
    exact exec_primeFermat_of_ok hbusy hres

end Sys2Proof.Machine

/-! # The bus window: the words written to it, its bytes, its refusals and a whole call (20_memory.md) -/

namespace Sys2Proof

open Sys2Proof.Machine Sys2Proof.Claims

/-! ### Decoding what is encoded (R42, R56 to R59, R75 to R77) -/

/-- A word that breaks one of R58's conditions decodes to itself as an illegal command: past the checks of RSVD and
ROUNDS, only its opcode can be at fault. -/
theorem decodeCommand_of_not_legal {w : Word} (h : legalCommandWord w = false) : decodeCommand w = .illegal w := by
  unfold decodeCommand
  split_ifs with hrsvd hrounds
  · rfl
  · rfl
  · have hopcode : ¬ (1 ≤ (opcodeOf w).toNat ∧ (opcodeOf w).toNat ≤ 7) := by
      rintro ⟨hlow, hhigh⟩
      have hlegal : legalCommandWord w = true := by
        simp only [not_not] at hrsvd
        simp only [legalCommandWord, Bool.and_eq_true, Bool.or_eq_true, decide_eq_true_eq]
        exact ⟨⟨⟨hlow, hhigh⟩, hrsvd⟩, by tauto⟩
      simp [hlegal] at h
    split
    iterate 7 · omega
    · rfl

/-- The three fields of a PRIME_FERMAT word are the ones it is put together from (R56, R59). -/
theorem decodeCommand_primeFermat (r : BitVec 8) :
    decodeCommand (encodeWord (.primeFermat r)) = .primeFermat r := by
  have hword := encodeWord_primeFermat_toNat r
  have hr := r.isLt
  have hrsvd : rsvdOf (encodeWord (.primeFermat r)) = 0#48 := by
    apply BitVec.eq_of_toNat_eq
    rw [rsvdOf_toNat, hword, BitVec.toNat_ofNat]
    omega
  have hrounds : roundsOf (encodeWord (.primeFermat r)) = r := by
    apply BitVec.eq_of_toNat_eq
    rw [roundsOf_toNat, hword]
    omega
  have hopcode : opcodeOf (encodeWord (.primeFermat r)) = 0x06#8 := by
    apply BitVec.eq_of_toNat_eq
    rw [opcodeOf_toNat, hword, BitVec.toNat_ofNat]
    omega
  simp [decodeCommand, hrsvd, hrounds, hopcode]

/-- A write of an instruction's word at its offset decodes to the instruction. -/
theorem decodeWrite_encode {i : Instr} (h : i.wellFormed = true) :
    decodeWrite (encodeOffset i) (encodeWord i) = .ok i := by
  cases i with
  | gcd | xgcd | modpow | modinv | primeTd | fermatWitness => rfl
  | primeFermat r => exact congrArg Except.ok (decodeCommand_primeFermat r)
  | illegal w =>
    have hillegal : legalCommandWord w = false := by simpa [Instr.wellFormed] using h
    exact congrArg Except.ok (decodeCommand_of_not_legal hillegal)
  | ack w =>
    have hbit1 : w.getLsbD 1 = true := h
    show decodeStatusWrite w = _
    rw [decodeStatusWrite, if_pos hbit1]
  | clrovr w =>
    obtain ⟨hbit3, hbit1⟩ : w.getLsbD 3 = true ∧ w.getLsbD 1 = false := by simpa [Instr.wellFormed] using h
    show decodeStatusWrite w = _
    simp only [decodeStatusWrite, hbit1, hbit3, Bool.false_eq_true, if_false, if_true]
  | ei w =>
    obtain ⟨hbit0, hbit1⟩ : w.getLsbD 0 = true ∧ w.getLsbD 1 = false := by simpa [Instr.wellFormed] using h
    show Except.ok (decodeCtrlWrite w) = _
    simp only [decodeCtrlWrite, hbit0, hbit1, Bool.false_eq_true, if_false, if_true]
  | di w =>
    obtain ⟨hbit0, hbit1⟩ : w.getLsbD 0 = false ∧ w.getLsbD 1 = false := by simpa [Instr.wellFormed] using h
    show Except.ok (decodeCtrlWrite w) = _
    simp only [decodeCtrlWrite, hbit0, hbit1, Bool.false_eq_true, if_false]
  | srst w =>
    have hbit1 : w.getLsbD 1 = true := h
    show Except.ok (decodeCtrlWrite w) = _
    rw [decodeCtrlWrite, if_pos hbit1]

/-- Settles O1: the byte lanes give the word back, and the word at its offset gives the instruction. -/
theorem decodeEncodeRoundTrip : Obligations.DecodeEncodeRoundTrip := by
  unfold Obligations.DecodeEncodeRoundTrip
  intro i h rest
  rw [encode, decodeBytes_bytesOfWord, decodeWrite_encode h]
  rfl

/-- Settles O4: the decoder evaluated on each of the sample words. -/
theorem sampleWordsDecode : Obligations.SampleWordsDecode := by
  unfold Obligations.SampleWordsDecode
  exact ⟨rfl, rfl, rfl, rfl, rfl, rfl, rfl, rfl⟩

end Sys2Proof

namespace Sys2Proof.Machine

open Sys2Proof.Claims

/-! ### The step of a given transaction, and of an empty queue -/

theorem step_of_nextIs {s : State} {m width : Nat} {off : Offset} {acc : Access} (h : nextIs s m width off acc) :
    step s = .next (s.popHost.transact ⟨m, width, off, acc⟩) := by
  obtain ⟨hturn, hhead⟩ := h
  obtain ⟨rest, hhost⟩ := List.head?_eq_some_iff.mp hhead
  exact step_of_access hturn hhost

/-- With no host operation left, a step that is not the engine's is none (R67, log 7). -/
theorem step_of_no_host {s : State} (hturn : s.engineTurn = false) (hhost : s.host = []) :
    step s = .refused .noEnabledStep := by
  have hf : s.fetch = none := by simp [State.fetch, hturn, hhost]
  simp only [step, hf, hostStep, hhost]

/-- Settles O6: the register write of the transaction is the meaning of the row it decodes to. -/
theorem stepRunsDecodedControlWrite : Obligations.StepRunsDecodedControlWrite := by
  unfold Obligations.StepRunsDecodedControlWrite
  intro s m off w i hnext hoff hdec
  have hcmd : off ≠ cmdOffset := by rcases hoff with rfl | rfl <;> decide
  have halign : off.toNat % 8 = 0 := by rcases hoff with rfl | rfl <;> decide
  have hadm : (Transaction.mk m 64 off (.write w)).admitted = true :=
    (Transaction.admitted_iff _).mpr ⟨rfl, halign⟩
  obtain ⟨hcontrol, hoffset, hword⟩ := decodeWrite_control hcmd hdec
  rw [step_of_nextIs hnext, State.transact_write _ hadm rfl, exec_control hcontrol, hoffset, hword]
  rfl

/-! ### Refused transactions and the fault set (R39, R40, R121) -/

theorem Transaction.admitted_eq_false_iff (x : Transaction) :
    x.admitted = false ↔ x.width ≠ 64 ∨ x.off.toNat % 8 ≠ 0 := by
  rw [← Bool.not_eq_true, x.admitted_iff, not_and_or]

/-- A step keeps the fault set, or puts the transaction it refuses on top of it. -/
theorem step_faults {s t : State} (h : step s = .next t) :
    t.faults = s.faults ∨
    ∃ m width off acc, nextIs s m width off acc ∧ (width ≠ 64 ∨ off.toNat % 8 ≠ 0) ∧
      t.faults = .busError m width off acc :: s.faults := by
  rcases step_cases h with ⟨hturn, -⟩ | ⟨hturn, ⟨x, rest, hhost, ht⟩ | ⟨m, rest, hhost, -⟩ | ⟨rest, -, ht⟩⟩
  · exact .inl (step_faults_of_admitted (.inl hturn) h)
  · cases hadm : x.admitted with
    | true => exact .inl (step_faults_of_admitted (.inr ⟨.access x, by rw [hhost]; rfl, hadm⟩) h)
    | false =>
      rw [State.transact_of_refused _ hadm] at ht
      exact .inr ⟨x.master, x.width, x.off, x.access, ⟨hturn, by rw [hhost]; rfl⟩, x.admitted_eq_false_iff.mp hadm,
        by rw [ht, State.refuse_faults, State.popHost_faults]⟩
  · exact .inl (step_faults_of_admitted (.inr ⟨.wait m, by rw [hhost]; rfl, rfl⟩) h)
  · exact .inl (by rw [ht, State.blockReset_faults, State.popHost_faults])

theorem complete_ne_fault (r : CmdResult) (s : State) (f : Fault) : complete r s ≠ .fault f := by
  cases hfsm : s.fsm with
  | idle => simp [complete_of_idle r hfsm]
  | busy => simp [complete_of_busy r hfsm]

/-- No step stops with a fault (log 6): a completion goes on or is refused, a host operation goes on. -/
theorem step_ne_fault (s : State) (f : Fault) : step s ≠ .fault f := by
  cases hturn : s.engineTurn with
  | true =>
    obtain ⟨r, k, hexec⟩ := exec_command (decodeCommand_isCommand s.latCmd) s
    rw [step_of_engineTurn hturn, hexec]
    exact complete_ne_fault r _ f
  | false =>
    cases hhost : s.host with
    | nil => simp [step_of_no_host hturn hhost]
    | cons op rest =>
      cases op with
      | access x => simp [step_of_access hturn hhost]
      | wait m => simp [step_of_wait hturn hhost]
      | resetInput => simp [step_of_resetInput hturn hhost]

/-- Settles O39: a refused transaction is answered and recorded, and a step keeps what is recorded. -/
theorem refusedTransactionChangesNothing : Obligations.RefusedTransactionChangesNothing := by
  unfold Obligations.RefusedTransactionChangesNothing
  refine ⟨fun s m width off acc hbad hnext => ?_, fun s t h => ?_⟩
  · rw [step_of_nextIs hnext, State.transact_of_refused _ ((Transaction.admitted_eq_false_iff _).mpr hbad)]
    rfl
  · rcases step_faults h with hkeep | ⟨m, width, off, acc, -, -, hadd⟩
    · rw [hkeep]
    · rw [hadd]
      exact List.suffix_cons _ _

/-- Settles O40: no step stops with a fault, and a refused transaction is all that is ever added. -/
theorem faultsAreNeverCleared : Obligations.FaultsAreNeverCleared := by
  unfold Obligations.FaultsAreNeverCleared
  exact fun s => ⟨step_ne_fault s, fun t h => step_faults h⟩

/-! ### One poll of WAIT (R44, R64) -/

/-- Bit 0 of the STATUS word is BUSY (R17). -/
theorem State.statusWord_bit0_iff (s : State) : s.statusWord.getLsbD 0 = true ↔ s.fsm = .busy := by
  rw [State.statusWord, BitVec.getLsbD_append]
  simp [State.busyBit]

/-- What a poll leaves: the answer, one host operation fewer before the completion, and WAIT queued while BUSY. -/
theorem State.pollWait_eq_ite (s : State) (m : Nat) :
    s.pollWait m =
      { s with
        responses := (m, .data s.statusWord) :: s.responses, countdown := s.countdown - 1,
        host := if s.fsm = .busy then s.host else s.host.tail } := by
  unfold State.pollWait
  split
  · next hbusy =>
    rw [if_pos hbusy]
    rfl
  · next hidle =>
    rw [if_neg (by simp [hidle])]
    rfl

/-- Settles O42: bit 0 of the word that the poll answers is set exactly while BUSY. -/
theorem waitPollsStatus : Obligations.WaitPollsStatus := by
  unfold Obligations.WaitPollsStatus
  intro s m hturn hhead
  obtain ⟨rest, hhost⟩ := List.head?_eq_some_iff.mp hhead
  rw [step_of_wait hturn hhost, s.pollWait_eq_ite m]
  simp only [s.statusWord_bit0_iff]

/-! ### The window byte by byte (R42) -/

/-- Bits [8i+7:8i] of a word in arithmetic (R42). -/
theorem byteLane_toNat (w : Word) (i : Nat) : (byteLane w i).toNat = w.toNat / 2 ^ (8 * i) % 256 := by
  rw [byteLane, BitVec.extractLsb'_toNat, Nat.shiftRight_eq_div_pow]

/-- The registers lie on multiples of 8 up to 0x50 (R14). -/
theorem Reg.offset_aligned (r : Reg) : r.offset.toNat % 8 = 0 ∧ r.offset.toNat ≤ 0x50 := by
  cases r <;> decide

theorem State.readOffset_offset (s : State) (r : Reg) : s.readOffset r.offset = s.readReg r := by
  rw [State.readOffset, regAt_offset]

/-- Byte `i` of a register stands at its offset plus `i` (R42). -/
theorem State.windowByte_offset_add (s : State) (r : Reg) {i : Nat} (hi : i < 8) :
    s.windowByte (r.offset + BitVec.ofNat 8 i) = byteLane (s.readReg r) i := by
  obtain ⟨halign, hle⟩ := r.offset_aligned
  have hsum : (r.offset + BitVec.ofNat 8 i).toNat = r.offset.toNat + i := by
    rw [BitVec.toNat_add, BitVec.toNat_ofNat]
    omega
  have hbase : (r.offset.toNat + i) / 8 * 8 = r.offset.toNat := by omega
  have hlane : (r.offset.toNat + i) % 8 = i := by omega
  rw [State.windowByte, hsum, hbase, hlane, BitVec.ofNat_toNat, BitVec.setWidth_eq, State.readOffset_offset]

/-- Settles O51: the byte at an offset plus `i` is lane `i`, and a lane is a quotient modulo 256. -/
theorem byteLanesAreLittleEndian : Obligations.ByteLanesAreLittleEndian := by
  unfold Obligations.ByteLanesAreLittleEndian
  intro s r i hi
  rw [s.windowByte_offset_add r hi, byteLane_toNat]

/-- A byte of the window depends on the register in its eight-byte slot alone. -/
theorem State.windowByte_congr {s t : State} {off : Offset}
    (h : ∀ r : Reg, r.offset.toNat / 8 = off.toNat / 8 → t.readReg r = s.readReg r) :
    t.windowByte off = s.windowByte off := by
  have hread : t.readOffset (BitVec.ofNat 8 (off.toNat / 8 * 8)) =
      s.readOffset (BitVec.ofNat 8 (off.toNat / 8 * 8)) := by
    unfold State.readOffset
    cases hreg : regAt (BitVec.ofNat 8 (off.toNat / 8 * 8)) with
    | none => rfl
    | some r =>
      have hslot : r.offset.toNat / 8 = off.toNat / 8 := by
        have hoff := off.isLt
        rw [← offset_of_regAt hreg, BitVec.toNat_ofNat]
        omega
      exact h r hslot
  rw [State.windowByte, State.windowByte, hread]

/-- A completion leaves every register but STATUS and the results (R73). -/
theorem readReg_of_command {i : Instr} {s t : State} (hc : isCommand i = true) (h : exec i s = .next t) {r : Reg}
    (hr : r.offset.toNat / 8 ∉ [2, 8, 9, 10]) : t.readReg r = s.readReg r := by
  obtain ⟨-, hie, hcmd, hopa, hopb, hopc, -⟩ := completionFrame i s t hc h
  cases r with
  | id => rfl
  | cmd => exact hcmd
  | ctrl => simp only [State.readReg, State.ctrlWord, hie]
  | opa => exact hopa
  | opb => exact hopb
  | opc => exact hopc
  | status | res0 | res1 | res2 => exact absurd (by decide) hr

/-- A STATUS write leaves every register but STATUS (R75). -/
theorem State.writeStatus_readReg (s : State) (w : Word) {r : Reg} (hr : r.offset.toNat / 8 ≠ 2) :
    (s.writeStatus w).readReg r = s.readReg r := by
  cases r with
  | status => exact absurd rfl hr
  | _ => rfl

/-- A CTRL write that does not reset leaves every register but CTRL (R76). -/
theorem State.writeCtrl_readReg (s : State) {w : Word} (hw : w.getLsbD 1 = false) {r : Reg}
    (hr : r.offset.toNat / 8 ≠ 3) : (s.writeCtrl w).readReg r = s.readReg r := by
  rw [s.writeCtrl_of_not_bit1 hw]
  cases r with
  | ctrl => exact absurd rfl hr
  | _ => rfl

/-- EI and DI words do not reset: their row fixes bit 1 to 0 (R76). -/
theorem bit1_of_wellFormed_enable {i : Instr} {w : Word} (hi : i = .ei w ∨ i = .di w) (h : i.wellFormed = true) :
    w.getLsbD 1 = false := by
  rcases hi with rfl | rfl <;> simp_all [Instr.wellFormed]

/-- Settles O50: a byte changes only with the register in its slot, and each row writes the slots named. -/
theorem windowByteFrame : Obligations.WindowByteFrame := by
  unfold Obligations.WindowByteFrame
  intro i s t off h
  refine ⟨fun hc hoff => ?_, fun w hi hoff => ?_, fun w hi hwf hoff => ?_⟩
  · exact State.windowByte_congr fun r hr => readReg_of_command hc h (hr ▸ hoff)
  · have ht : t = s.writeStatus w := by rcases hi with rfl | rfl <;> exact (Host.Outcome.next.inj h).symm
    subst ht
    exact State.windowByte_congr fun r hr => s.writeStatus_readReg w (hr ▸ hoff)
  · have ht : t = s.writeCtrl w := by rcases hi with rfl | rfl <;> exact (Host.Outcome.next.inj h).symm
    subst ht
    exact State.windowByte_congr fun r hr => s.writeCtrl_readReg (bit1_of_wellFormed_enable hi hwf) (hr ▸ hoff)

end Sys2Proof.Machine

/-! # A whole call: the host's writes while a command is in flight, and the GCD that it gets (R85, R86, R134) -/

namespace Sys2Proof.Machine

open Sys2Proof.Claims

/-! ### The command in flight -/

/-- From `s` to `t` the command in flight stays as it is: the engine state, the command word and all latches. -/
structure KeepsFlight (s t : State) : Prop where
  fsm : t.fsm = s.fsm
  cmd : t.cmd = s.cmd
  latCmd : t.latCmd = s.latCmd
  latA : t.latA = s.latA
  latB : t.latB = s.latB
  latC : t.latC = s.latC

theorem KeepsFlight.refl (s : State) : KeepsFlight s s := ⟨rfl, rfl, rfl, rfl, rfl, rfl⟩

theorem KeepsFlight.trans {s t u : State} (h : KeepsFlight s t) (h' : KeepsFlight t u) : KeepsFlight s u :=
  ⟨h'.fsm.trans h.fsm, h'.cmd.trans h.cmd, h'.latCmd.trans h.latCmd, h'.latA.trans h.latA, h'.latB.trans h.latB,
    h'.latC.trans h.latC⟩

/-- A step of the host that leaves the command in flight: one host operation fewer before the completion, and the queue
loses its head, or keeps it where it is a WAIT (log 3, log 15). -/
structure HostMoves (s t : State) : Prop extends KeepsFlight s t where
  countdown : t.countdown = s.countdown - 1
  host : t.host = s.host ∨ t.host = s.host.tail

theorem State.engineTurn_iff (s : State) :
    s.engineTurn = true ↔ s.fsm = .busy ∧ (s.countdown = 0 ∨ s.host = []) := by
  simp [State.engineTurn]

/-- While BUSY, a write that does not reset leaves the command in flight, its countdown and the queue (R72, R75, R76,
R78, R84). -/
theorem State.writeOffset_of_busy {s : State} {off : Offset} {w : Word} (hbusy : s.fsm = .busy)
    (hreset : off = ctrlOffset → w.getLsbD 1 = false) :
    KeepsFlight s (s.writeOffset off w) ∧ (s.writeOffset off w).countdown = s.countdown ∧
      (s.writeOffset off w).host = s.host := by
  rcases s.writeOffset_cases off w with h | h | h | h | ⟨-, h⟩ | ⟨-, h⟩ | ⟨hoff, h⟩ <;> rw [h]
  iterate 4 exact ⟨⟨rfl, rfl, rfl, rfl, rfl, rfl⟩, rfl, rfl⟩
  · rw [State.issue_of_busy w hbusy]
    exact ⟨⟨rfl, rfl, rfl, rfl, rfl, rfl⟩, rfl, rfl⟩
  · exact ⟨⟨rfl, rfl, rfl, rfl, rfl, rfl⟩, rfl, rfl⟩
  · rw [s.writeCtrl_of_not_bit1 (hreset hoff)]
    exact ⟨⟨rfl, rfl, rfl, rfl, rfl, rfl⟩, rfl, rfl⟩

/-- While BUSY, a transaction that does not reset leaves the command in flight. -/
theorem State.transact_of_busy {s : State} {x : Transaction} (hbusy : s.fsm = .busy)
    (hreset : (HostOp.access x).resets = false) : HostMoves s (s.popHost.transact x) := by
  rcases s.popHost.transact_cases x with ⟨-, h⟩ | ⟨-, -, h⟩ | ⟨w, hadm, hacc, h⟩ <;> rw [h]
  · exact ⟨⟨rfl, rfl, rfl, rfl, rfl, rfl⟩, rfl, .inr rfl⟩
  · exact ⟨⟨rfl, rfl, rfl, rfl, rfl, rfl⟩, rfl, .inr rfl⟩
  · have hbit1 : x.off = ctrlOffset → w.getLsbD 1 = false := fun hoff => by
      simpa [HostOp.resets, hacc, hadm, hoff] using hreset
    obtain ⟨hkeep, hcount, hhost⟩ :=
      State.writeOffset_of_busy (s := s.popHost.respond x.master .written) hbusy hbit1
    exact ⟨⟨hkeep.fsm, hkeep.cmd, hkeep.latCmd, hkeep.latA, hkeep.latB, hkeep.latC⟩, hcount, .inr hhost⟩

/-- While a command's latency lasts, the host operation at the head of the queue is a step that leaves the command in
flight, unless it resets the block. -/
theorem step_of_hostTurn {s : State} (hbusy : s.fsm = .busy) (hturn : s.engineTurn = false)
    (hreset : ∀ op ∈ s.host.take s.countdown, op.resets = false) :
    ∃ t : State, step s = .next t ∧ HostMoves s t := by
  have hwait : ¬ (s.countdown = 0 ∨ s.host = []) := fun h => by simp [s.engineTurn_iff.mpr ⟨hbusy, h⟩] at hturn
  obtain ⟨hcount, hhost⟩ := not_or.mp hwait
  obtain ⟨op, rest, hqueue⟩ := List.exists_cons_of_ne_nil hhost
  have hop : op.resets = false := by
    obtain ⟨n, hn⟩ := Nat.exists_eq_succ_of_ne_zero hcount
    exact hreset op (by simp [hqueue, hn])
  cases op with
  | access x => exact ⟨_, step_of_access hturn hqueue, State.transact_of_busy hbusy hop⟩
  | wait m =>
    refine ⟨_, step_of_wait hturn hqueue, ?_⟩
    rw [s.pollWait_eq_ite m, if_pos hbusy]
    exact ⟨⟨rfl, rfl, rfl, rfl, rfl, rfl⟩, rfl, .inl rfl⟩
  | resetInput => simp [HostOp.resets] at hop

/-- What comes within the latency after a host operation was to come within it before. -/
theorem HostMoves.mem_take {s t : State} (h : HostMoves s t) (hcount : s.countdown ≠ 0) {op : HostOp}
    (hop : op ∈ t.host.take t.countdown) : op ∈ s.host.take s.countdown := by
  rw [h.countdown] at hop
  rcases h.host with hhost | hhost <;> rw [hhost] at hop
  · exact List.take_subset_take_left _ (Nat.sub_le _ _) hop
  · rw [← List.drop_one, List.take_drop, Nat.add_sub_of_le (Nat.pos_of_ne_zero hcount)] at hop
    exact List.mem_of_mem_drop hop

/-! ### Runs -/

/-- A run's last step. -/
theorem run_succ_of_run {k : Nat} {s t u : State} (h : Host.Core.run core k s = .next t) (hstep : step t = .next u) :
    Host.Core.run core (k + 1) s = .next u := by
  induction k generalizing s with
  | zero =>
    obtain rfl : s = t := Host.Outcome.next.inj h
    exact run_succ_of_step 0 hstep
  | succ k ih =>
    cases hs : step s with
    | next v =>
      rw [run_succ_of_step k hs] at h
      rw [run_succ_of_step (k + 1) hs]
      exact ih h
    | fault f => exact absurd hs (step_ne_fault s f)
    | refused r =>
      have hcore : core.step s = .refused r := hs
      simp [Host.Core.run, hcore] at h

/-- The engine gets its turn within as many steps as the latency has left, by induction on the latency, and the command
in flight is still the one it was (R85, R134). -/
theorem run_to_engineTurn {s : State} (hbusy : s.fsm = .busy)
    (hreset : ∀ op ∈ s.host.take s.countdown, op.resets = false) :
    ∃ (k : Nat) (t : State), k ≤ s.countdown ∧ Host.Core.run core k s = .next t ∧ t.engineTurn = true ∧
      KeepsFlight s t := by
  induction hn : s.countdown generalizing s with
  | zero => exact ⟨0, s, le_rfl, rfl, s.engineTurn_iff.mpr ⟨hbusy, .inl hn⟩, .refl s⟩
  | succ n ih =>
    cases hturn : s.engineTurn with
    | true => exact ⟨0, s, Nat.zero_le _, rfl, hturn, .refl s⟩
    | false =>
      obtain ⟨t, hstep, hmoves⟩ := step_of_hostTurn hbusy hturn hreset
      have hcount : t.countdown = n := by rw [hmoves.countdown, hn, Nat.add_sub_cancel]
      obtain ⟨k, u, hk, hrun, huturn, hkeep⟩ := ih (hmoves.fsm.trans hbusy)
        (fun op hop => hreset op (hmoves.mem_take (by omega) hop)) hcount
      exact ⟨k + 1, u, by omega, by rw [run_succ_of_step k hstep, hrun], huturn, hmoves.toKeepsFlight.trans hkeep⟩

/-- From IDLE, a CMD write is accepted and its command gets to the engine within its latency, as it was accepted, unless
a reset comes first (R71, R85, R134). -/
theorem run_of_accepted_command {s : State} {m : Nat} {w : Word} (hidle : s.fsm = .idle)
    (hnext : nextIs s m 64 0x08#8 (.write w))
    (hreset : ∀ op ∈ s.host.tail.take s.nextLatency, op.resets = false) :
    ∃ (k : Nat) (t : State), k ≤ s.nextLatency + 1 ∧ Host.Core.run core k s = .next t ∧ t.engineTurn = true ∧
      KeepsFlight ((s.popHost.respond m .written).accept w) t := by
  have hadm : (Transaction.mk m 64 0x08#8 (.write w)).admitted = true := admitted_at_register m .cmd _
  have hstep : step s = .next ((s.popHost.respond m .written).accept w) := by
    rw [step_of_nextIs hnext, State.transact_write _ hadm rfl]
    exact congrArg Host.Outcome.next (State.issue_of_idle w hidle)
  obtain ⟨k, t, hk, hrun, hturn, hkeep⟩ := run_to_engineTurn (s := (s.popHost.respond m .written).accept w) rfl hreset
  exact ⟨k + 1, t, Nat.succ_le_succ hk, by rw [run_succ_of_step k hstep, hrun], hturn, hkeep⟩

/-! ### The GCD call (R86) -/

/-- GCD where its checks pass (R86). -/
theorem gcdResult_ok {a b : Int} (h : euclidError a b = none) : gcdResult a b = .ok (Int.gcd a b) 0 0 := by
  rw [gcdResult, h, euclid_eq_gcd _ _ _ (Nat.lt_succ_self _)]
  rfl

/-- Operands in R86's order of which the first is neither 0 nor the least integer pass all its checks: the second is
then no larger in size than an int64. -/
theorem euclidError_none_of_order {a b : Int} (ha : inInt64 a = true) (hmin : a ≠ int64Min)
    (horder : b.natAbs ≤ a.natAbs) (hzero : a ≠ 0) : euclidError a b = none := by
  refine euclidError_none.mpr ⟨hmin, ?_, fun h => hzero h.1, horder⟩
  rw [inInt64_iff] at ha
  rw [int64Min] at *
  omega

/-- Settles O56: the accepted command reaches the engine on the operands as they stood, and completes there. -/
theorem gcdCallReturnsGcd : Obligations.GcdCallReturnsGcd := by
  unfold Obligations.GcdCallReturnsGcd
  intro s m hidle hnext hreset hmin horder hzero
  obtain ⟨k, t, hk, hrun, hturn, hkeep⟩ := run_of_accepted_command hidle hnext hreset
  have hpass : euclidError s.opa.toInt s.opb.toInt = none :=
    euclidError_none_of_order (inInt64_int64 s.opa) hmin horder hzero
  have hresult : gcdResult t.a t.b = .ok (Int.gcd s.opa.toInt s.opb.toInt) 0 0 := by
    rw [State.a, State.b, hkeep.latA, hkeep.latB]
    exact gcdResult_ok hpass
  have hdecode : decodeCommand t.latCmd = .gcd := by
    rw [hkeep.latCmd, State.accept_latCmd]
    decide
  have hstep : step t = .next (t.finish (.ok (Int.gcd s.opa.toInt s.opb.toInt) 0 0)) := by
    rw [step_of_engineTurn hturn, hdecode, ← hresult]
    exact complete_of_busy _ hkeep.fsm
  refine ⟨k + 1, _, Nat.succ_le_succ hk, run_succ_of_run hrun hstep, rfl, rfl, rfl, ?_, rfl, rfl, hkeep.cmd⟩
  exact int64_word64 (gcd_inInt64 (inInt64_int64 s.opa) hpass)

end Sys2Proof.Machine

/-! # The words written to CMD, STATUS and CTRL, and the pseudo-instructions that write them (30_encoding.md) -/

namespace Sys2Proof

open Sys2Proof.Machine Sys2Proof.Claims

/-! ### Legal command words (R56 to R58) -/

/-- RSVD is 0 exactly when the word is below 2^16 (R56). -/
theorem rsvdOf_eq_zero_iff (w : Word) : rsvdOf w = 0#48 ↔ w.toNat / 65536 = 0 := by
  rw [← BitVec.toNat_inj, rsvdOf_toNat, BitVec.toNat_ofNat, Nat.zero_mod]

/-- The model's check of a command word is R58's, in arithmetic. -/
theorem legalCommandWord_iff (w : Word) : legalCommandWord w = true ↔ legalWord w := by
  have hrounds : roundsOf w = 0#8 ↔ w.toNat / 256 % 256 = 0 := by
    rw [← BitVec.toNat_inj, roundsOf_toNat, BitVec.toNat_ofNat, Nat.zero_mod]
  have hopcode : opcodeOf w = 6#8 ↔ w.toNat % 256 = 6 := by
    rw [← BitVec.toNat_inj, opcodeOf_toNat]
    rfl
  rw [legalWord, ← rsvdOf_eq_zero_iff, ← hrounds, ← hopcode, ← opcodeOf_toNat]
  simp [legalCommandWord, opcodeOf, roundsOf, rsvdOf, and_assoc]

/-- A legal word other than PRIME_FERMAT's is its opcode alone: its ROUNDS and RSVD are 0 (R58). -/
theorem eq_opcode_of_legalWord {w : Word} (h : legalWord w) (h6 : w.toNat % 256 ≠ 6) :
    w = BitVec.ofNat 64 (w.toNat % 256) := by
  obtain ⟨-, -, hrsvd, hrounds⟩ := h
  apply BitVec.eq_of_toNat_eq
  rw [BitVec.toNat_ofNat]
  omega

/-- A legal word of opcode 6 is the PRIME_FERMAT word of its ROUNDS byte (R58, R59). -/
theorem eq_primeFermat_of_legalWord {w : Word} (h : legalWord w) (h6 : w.toNat % 256 = 6) :
    w = encodeWord (.primeFermat (BitVec.ofNat 8 (w.toNat / 256))) := by
  obtain ⟨-, -, hrsvd, -⟩ := h
  apply BitVec.eq_of_toNat_eq
  rw [encodeWord_primeFermat_toNat, BitVec.toNat_ofNat]
  omega

/-- A word that is not legal decodes to itself as an illegal command (R62, R63). -/
theorem decodeCommand_of_not_legalWord {w : Word} (h : ¬ legalWord w) : decodeCommand w = .illegal w :=
  decodeCommand_of_not_legal (Bool.eq_false_iff.mpr (mt (legalCommandWord_iff w).mp h))

/-- Settles O3: a legal word is the word of its opcode's command, and that word decodes to the command. -/
theorem commandWordDecodes : Obligations.CommandWordDecodes := by
  unfold Obligations.CommandWordDecodes
  refine fun w => ⟨fun h => ?_, decodeCommand_of_not_legalWord⟩
  have hdecode {k : Nat} (hk : w.toNat % 256 = k) (h6 : k ≠ 6) :
      decodeCommand w = decodeCommand (BitVec.ofNat 64 k) := by
    rw [eq_opcode_of_legalWord h (hk ▸ h6), hk]
  refine ⟨fun h1 => hdecode h1 (by decide), fun h2 => hdecode h2 (by decide), fun h3 => hdecode h3 (by decide),
    fun h4 => hdecode h4 (by decide), fun h5 => hdecode h5 (by decide), fun h6 => ?_, fun h7 => hdecode h7 (by decide)⟩
  rw [eq_primeFermat_of_legalWord h h6, decodeCommand_primeFermat, ← eq_primeFermat_of_legalWord h h6]

/-! ### Encoding what was decoded (R56, R57, R75 to R77) -/

/-- The instruction a write decodes to is well formed and is encoded as that write. -/
def EncodesTo (i : Instr) (off : Offset) (w : Word) : Prop :=
  i.wellFormed = true ∧ encodeOffset i = off ∧ encodeWord i = w

/-- A legal word is the word of a well-formed command (R57, R58). -/
theorem exists_encodesTo_of_legalWord {w : Word} (h : legalWord w) : ∃ i, EncodesTo i cmdOffset w := by
  by_cases h6 : w.toNat % 256 = 6
  · exact ⟨_, rfl, rfl, (eq_primeFermat_of_legalWord h h6).symm⟩
  · rw [eq_opcode_of_legalWord h h6]
    obtain ⟨hlow, hhigh, -⟩ := h
    generalize w.toNat % 256 = opcode at *
    interval_cases opcode
    · exact ⟨.gcd, rfl, rfl, rfl⟩
    · exact ⟨.xgcd, rfl, rfl, rfl⟩
    · exact ⟨.modpow, rfl, rfl, rfl⟩
    · exact ⟨.modinv, rfl, rfl, rfl⟩
    · exact ⟨.primeTd, rfl, rfl, rfl⟩
    · exact absurd rfl h6
    · exact ⟨.fermatWitness, rfl, rfl, rfl⟩

/-- Every command word is the word of a well-formed instruction, an illegal one of `illegal` (R62). -/
theorem exists_encodesTo_cmd (w : Word) : ∃ i, EncodesTo i cmdOffset w := by
  cases hlegal : legalCommandWord w with
  | true => exact exists_encodesTo_of_legalWord ((legalCommandWord_iff w).mp hlegal)
  | false => exact ⟨.illegal w, by simp [Instr.wellFormed, hlegal], rfl, rfl⟩

theorem wellFormed_of_decodeStatusWrite {w : Word} {i : Instr} (h : decodeStatusWrite w = .ok i) :
    i.wellFormed = true := by
  unfold decodeStatusWrite at h
  split_ifs at h with hbit1 hbit3 <;> obtain rfl := Except.ok.inj h
  · exact hbit1
  · simpa [Instr.wellFormed, hbit3] using hbit1

theorem decodeCtrlWrite_wellFormed (w : Word) : (decodeCtrlWrite w).wellFormed = true := by
  unfold decodeCtrlWrite
  split_ifs with hbit1 hbit0
  · exact hbit1
  · simpa [Instr.wellFormed] using And.intro hbit0 hbit1
  · simpa [Instr.wellFormed] using And.intro hbit0 hbit1

/-- Settles O2: a command word is the encoding of the one instruction it decodes to; a control row carries its word. -/
theorem encodeDecodeRoundTrip : Obligations.EncodeDecodeRoundTrip := by
  unfold Obligations.EncodeDecodeRoundTrip
  intro off w i h
  by_cases hcmd : off = cmdOffset
  · obtain ⟨j, hwf, hoff, hword⟩ := exists_encodesTo_cmd w
    have hj : decodeWrite off w = .ok j := by rw [hcmd, ← hoff, ← hword, decodeWrite_encode hwf]
    obtain rfl : i = j := Except.ok.inj (h.symm.trans hj)
    exact ⟨hwf, hoff.trans hcmd.symm, hword⟩
  · refine ⟨?_, (decodeWrite_control hcmd h).2⟩
    unfold decodeWrite at h
    split_ifs at h
    · exact wellFormed_of_decodeStatusWrite h
    · obtain rfl := Except.ok.inj h
      exact decodeCtrlWrite_wellFormed w

end Sys2Proof

namespace Sys2Proof.Machine

open Sys2Proof.Claims

/-! ### The completion of an illegal word (R63) and of the word in flight (R58, R73) -/

/-- Every sub-cause of an illegal word is IllegalCommand's (R63, R106). -/
theorem illegalCause_kind (w : Word) : (illegalCause w).kind = .illegalCommand := by
  unfold illegalCause
  split_ifs <;> rfl

/-- ERRDETAIL of an illegal word, R63's checks in arithmetic. -/
theorem illegalCause_detail (w : Word) :
    (illegalCause w).detail =
      if w.toNat % 256 = 0 ∨ 8 ≤ w.toNat % 256 then 1#8 else if w.toNat / 65536 ≠ 0 then 2#8 else 3#8 := by
  simp only [illegalCause, opcodeOf_toNat, ne_eq, rsvdOf_eq_zero_iff]
  split_ifs <;> rfl

/-- A completion with an error is the claims' failure with that error's codes (R73, R105, R106). -/
theorem State.finish_raise_eq_failed (s : State) (c : Cause) :
    s.finish (.raise c) = failed s c.kind.code c.detail := rfl

/-- Settles O22: a word that breaks R58 decodes as illegal, and its completion raises the first sub-cause of R63. -/
theorem illegalWordCompletes : Obligations.IllegalWordCompletes := by
  unfold Obligations.IllegalWordCompletes
  intro w s hillegal hbusy
  refine ⟨decodeCommand_of_not_legalWord hillegal, ?_⟩
  have hexec : exec (.illegal w) s = .next (s.finish (.raise (illegalCause w))) := complete_of_busy _ hbusy
  rw [hexec, State.finish_raise_eq_failed, illegalCause_kind, illegalCause_detail]
  rfl

/-- Settles O5: under these premises it is the engine's turn. -/
theorem stepRunsDecodedCommand : Obligations.StepRunsDecodedCommand := by
  unfold Obligations.StepRunsDecodedCommand
  exact fun s hbusy hnext => step_of_engineTurn (s.engineTurn_iff.mpr ⟨hbusy, hnext⟩)

/-! ### The command expansions (R64, R65) -/

theorem State.engineTurn_of_idle {s : State} (h : s.fsm = .idle) : s.engineTurn = false := by
  simp [State.engineTurn, h]

/-- After `k` steps from `s` the command `i` is in flight on a, b, c, and the host operations `after` are still to
come. -/
def IssuesIn (s : State) (k : Nat) (i : Instr) (a b c : Word) (after : List HostOp) : Prop :=
  ∃ t : State, Host.Core.run core k s = .next t ∧ inFlight t i a b c ∧ t.host = after

theorem calls_iff_issuesIn (s : State) (m : Nat) (rest : List HostOp) (p : Pseudo) (k : Nat) (i : Instr)
    (a b c : Word) :
    calls s m rest p k i a b c ↔ IssuesIn { s with host := expand m p ++ rest } k i a b c (.wait m :: rest) :=
  Iff.rfl

/-- A host write from IDLE, and then what is issued from the state it leaves. -/
theorem IssuesIn.of_wr {s : State} {m k : Nat} {r : Reg} {w a b c : Word} {ops after : List HostOp} {i : Instr}
    (hidle : s.fsm = .idle) (hhost : s.host = wr m r w :: ops)
    (h : IssuesIn ((s.popHost.respond m .written).writeReg r w) k i a b c after) :
    IssuesIn s (k + 1) i a b c after := by
  obtain ⟨t, hrun, hflight⟩ := h
  exact ⟨t, (run_succ_of_step k (step_of_wr (State.engineTurn_of_idle hidle) hhost)).trans hrun, hflight⟩

/-- IDLE, with a, b, c in the operand registers and the host operations `ops` to come. -/
structure Loaded (s : State) (a b c : Word) (ops : List HostOp) : Prop where
  idle : s.fsm = .idle
  opa : s.opa = a
  opb : s.opb = b
  opc : s.opc = c
  host : s.host = ops

section
variable {s : State} {m k : Nat} {i : Instr} {w x y z a b c a' b' c' : Word} {ops after : List HostOp}

/-! An operand write loads its register and leaves the other two (R78). -/

theorem Loaded.issuesIn_of_opa (h : Loaded s a b c (wr m .opa w :: ops))
    (next : ∀ t, Loaded t w b c ops → IssuesIn t k i a' b' c' after) : IssuesIn s (k + 1) i a' b' c' after :=
  .of_wr h.idle h.host (next _ ⟨h.idle, rfl, h.opb, h.opc, congrArg List.tail h.host⟩)

theorem Loaded.issuesIn_of_opb (h : Loaded s a b c (wr m .opb w :: ops))
    (next : ∀ t, Loaded t a w c ops → IssuesIn t k i a' b' c' after) : IssuesIn s (k + 1) i a' b' c' after :=
  .of_wr h.idle h.host (next _ ⟨h.idle, h.opa, rfl, h.opc, congrArg List.tail h.host⟩)

theorem Loaded.issuesIn_of_opc (h : Loaded s a b c (wr m .opc w :: ops))
    (next : ∀ t, Loaded t a b w ops → IssuesIn t k i a' b' c' after) : IssuesIn s (k + 1) i a' b' c' after :=
  .of_wr h.idle h.host (next _ ⟨h.idle, h.opa, h.opb, rfl, congrArg List.tail h.host⟩)

/-- The CMD write puts its command in flight on the operand registers as they stand (R71). -/
theorem Loaded.issuesIn_of_cmd (h : Loaded s a b c (wr m .cmd w :: ops)) :
    IssuesIn s 1 (decodeCommand w) a b c ops := by
  refine .of_wr h.idle h.host ⟨_, rfl, ?_⟩
  have haccept : (s.popHost.respond m .written).writeReg .cmd w = (s.popHost.respond m .written).accept w :=
    State.issue_of_idle w h.idle
  rw [haccept]
  exact ⟨⟨rfl, rfl, rfl, h.opa, h.opb, h.opc, h.opa, h.opb, h.opc⟩, congrArg List.tail h.host⟩

/-! Calls by the number of operands that the expansion writes, OPA first. -/

variable {rest : List HostOp} {p : Pseudo}

theorem loaded_of_idle (hidle : s.fsm = .idle) (ops : List HostOp) :
    Loaded { s with host := ops } s.opa s.opb s.opc ops := ⟨hidle, rfl, rfl, rfl, rfl⟩

theorem calls_of_one_operand (hidle : s.fsm = .idle)
    (hexp : expand m p = [wr m .opa x, wr m .cmd w, .wait m]) (hdecode : decodeCommand w = i) :
    calls s m rest p 2 i x s.opb s.opc := by
  rw [calls_iff_issuesIn, hexp, ← hdecode]
  exact (loaded_of_idle hidle _).issuesIn_of_opa fun _ ha => ha.issuesIn_of_cmd

theorem calls_of_two_operands (hidle : s.fsm = .idle)
    (hexp : expand m p = [wr m .opa x, wr m .opb y, wr m .cmd w, .wait m]) (hdecode : decodeCommand w = i) :
    calls s m rest p 3 i x y s.opc := by
  rw [calls_iff_issuesIn, hexp, ← hdecode]
  exact (loaded_of_idle hidle _).issuesIn_of_opa fun _ ha => ha.issuesIn_of_opb fun _ hb => hb.issuesIn_of_cmd

theorem calls_of_three_operands (hidle : s.fsm = .idle)
    (hexp : expand m p = [wr m .opa x, wr m .opb y, wr m .opc z, wr m .cmd w, .wait m])
    (hdecode : decodeCommand w = i) : calls s m rest p 4 i x y z := by
  rw [calls_iff_issuesIn, hexp, ← hdecode]
  exact (loaded_of_idle hidle _).issuesIn_of_opa fun _ ha => ha.issuesIn_of_opb fun _ hb =>
    hb.issuesIn_of_opc fun _ hc => hc.issuesIn_of_cmd

end

/-- R57's `(rounds << 8) OR 0x06` is the PRIME_FERMAT word of `rounds`. -/
theorem shifted_rounds_eq_encodeWord (r : BitVec 8) :
    (r.setWidth 64 <<< 8) ||| 0x06#64 = encodeWord (.primeFermat r) := by
  have hr := r.isLt
  apply BitVec.eq_of_toNat_eq
  rw [encodeWord_primeFermat_toNat, BitVec.toNat_or, BitVec.toNat_shiftLeft, BitVec.toNat_setWidth,
    BitVec.toNat_ofNat, Nat.shiftLeft_eq, Nat.mod_eq_of_lt (a := r.toNat) (by omega), Nat.mod_eq_of_lt (by omega),
    ← Nat.shiftLeft_eq]
  exact (Nat.shiftLeft_add_eq_or_of_lt (by decide) r.toNat).symm

/-- Settles O57: each expansion is its operand writes and the CMD write of a word that decodes to its command. -/
theorem commandExpansionsIssueTheirCommand : Obligations.CommandExpansionsIssueTheirCommand := by
  unfold Obligations.CommandExpansionsIssueTheirCommand
  intro s m rest x y z r hidle
  have hfermat : decodeCommand ((r.setWidth 64 <<< 8) ||| 0x06#64) = .primeFermat r := by
    rw [shifted_rounds_eq_encodeWord, decodeCommand_primeFermat]
  refine ⟨?gcd, ?xgcd, ?modpow, ?modinv, ?primeTd, ?primeFermat, ?primeFermatDefault, ?fermatWitness⟩
  case modpow => exact calls_of_three_operands hidle rfl rfl
  case primeTd => exact calls_of_one_operand hidle rfl rfl
  case primeFermat => exact calls_of_one_operand hidle rfl hfermat
  case primeFermatDefault => exact calls_of_one_operand hidle rfl rfl
  all_goals exact calls_of_two_operands hidle rfl rfl

/-! ### The control expansions (R65, R75 to R77) -/

/-- No register lies at a reserved offset (R14, R29). -/
theorem regAt_of_reserved {off : Offset} (h : off.toNat = 0x38 ∨ 0x58 ≤ off.toNat) : regAt off = none := by
  cases hreg : regAt off with
  | none => rfl
  | some r =>
    rw [offset_of_regAt hreg] at h
    revert h
    cases r <;> decide

/-- A block reset gives every register its reset value (R122, R123). -/
theorem State.blockReset_atReset (s : State) : atReset s.blockReset := by
  refine ⟨rfl, rfl, rfl, rfl, rfl, rfl, rfl, rfl, rfl, rfl, rfl, rfl, rfl, rfl, rfl, ?_, ?_, rfl, fun off hoff => ?_⟩
  · simp [State.statusWord, State.busyBit]
  · simp [State.ctrlWord]
  · simp only [State.readOffset, regAt_of_reserved hoff]

/-- ACK's table word clears DONE alone (R75). -/
theorem State.writeStatus_ackWord (s : State) : s.writeStatus 0x2#64 = { s with done := false } := by
  simp [State.writeStatus]

/-- CLROVR's table word clears OVR alone (R75). -/
theorem State.writeStatus_clrovrWord (s : State) : s.writeStatus 0x8#64 = { s with ovr := false } := by
  simp [State.writeStatus]

/-- A host write put at the head of the queue is the next step where the host moves next. -/
theorem step_of_wr_at_head {s : State} {m : Nat} {r : Reg} {w : Word} {rest : List HostOp}
    (hmoves : s.fsm = .idle ∨ 0 < s.countdown) :
    step { s with host := wr m r w :: rest } =
      .next (State.writeReg r w
        { s with host := rest, countdown := s.countdown - 1, responses := (m, .written) :: s.responses }) := by
  refine step_of_wr (rest := rest) ?_ rfl
  rw [Bool.eq_false_iff, Ne, State.engineTurn_iff]
  rintro ⟨hbusy, hzero | hempty⟩
  · rcases hmoves with hidle | hcount
    · exact absurd (hidle.symm.trans hbusy) (by decide)
    · exact absurd hzero (Nat.ne_of_gt hcount)
  · exact absurd hempty (List.cons_ne_nil _ _)

/-- Settles O58: each expansion is one register write, whose step is that write's effect on the block. -/
theorem controlExpansionsAct : Obligations.ControlExpansionsAct := by
  unfold Obligations.ControlExpansionsAct
  intro s m rest hmoves sends sent
  refine ⟨(step_of_wr_at_head hmoves).trans ?_, (step_of_wr_at_head hmoves).trans ?_, step_of_wr_at_head hmoves,
    step_of_wr_at_head hmoves, _, step_of_wr_at_head hmoves, sent.blockReset_atReset, rfl, rfl⟩
  · exact congrArg _ sent.writeStatus_ackWord
  · exact congrArg _ sent.writeStatus_clrovrWord

end Sys2Proof.Machine

/-! # Issue, control writes and completion: what each event of the block is (40_command_issue.md) -/

namespace Sys2Proof.Machine

open Sys2Proof.Claims

/-! ### The completion (R67, R70, R73, R74) -/

/-- Settles O23: a command is a completion, and a completion is enabled while BUSY. -/
theorem everyCommandCompletes : Obligations.EveryCommandCompletes := by
  unfold Obligations.EveryCommandCompletes
  intro i s hc hbusy
  obtain ⟨r, k, hexec⟩ := exec_command hc s
  obtain ⟨hdone, hidle, -⟩ := (s.afterDraws k).finish_frame r
  exact ⟨_, hexec.trans (complete_of_busy r hbusy), hdone, hidle⟩

/-- Settles O24: a command is a completion, and no completion is enabled while IDLE. -/
theorem idleEngineHasNoStep : Obligations.IdleEngineHasNoStep := by
  unfold Obligations.IdleEngineHasNoStep
  intro i s hc hidle
  obtain ⟨r, k, hexec⟩ := exec_command hc s
  exact hexec.trans (complete_of_idle r hidle)

/-- Settles O26: only a completion that raises an error shows one, and it clears the results. -/
theorem errorLeavesNoResult : Obligations.ErrorLeavesNoResult := by
  unfold Obligations.ErrorLeavesNoResult
  intro i s t hc h herr
  obtain ⟨r, k, hexec⟩ := exec_command hc s
  obtain ⟨-, rfl⟩ := complete_next (hexec.symm.trans h)
  cases r with
  | ok r0 r1 r2 => exact absurd herr (by simp)
  | raise c => exact ⟨rfl, rfl, rfl⟩

/-- Settles O55: the engine gets its turn within the latency with the same latches, and then the command completes. -/
theorem commandInFlightCompletes : Obligations.CommandInFlightCompletes := by
  unfold Obligations.CommandInFlightCompletes
  intro s hbusy hreset
  obtain ⟨k, t, hk, hrun, hturn, hkeep⟩ := run_to_engineTurn hbusy hreset
  have hstep : step t = exec (decodeCommand s.latCmd) t := by rw [step_of_engineTurn hturn, hkeep.latCmd]
  obtain ⟨u, hexec, hdone, hidle⟩ :=
    everyCommandCompletes _ t (decodeCommand_isCommand s.latCmd) (hkeep.fsm.trans hbusy)
  exact ⟨k, t, u, hk, hrun, hturn, hkeep.latCmd, hkeep.latA, hkeep.latB, hkeep.latC, hstep, hstep.trans hexec, hdone,
    hidle⟩

/-- Settles O43: while IDLE the engine has no turn, and the hosts have no operation. -/
theorem idleBlockWaits : Obligations.IdleBlockWaits := by
  unfold Obligations.IdleBlockWaits
  exact fun s hidle hhost => step_of_no_host (State.engineTurn_of_idle hidle) hhost

/-! ### The step of an admitted write or read (R39, R45, R80) -/

section
variable {s : State} {m : Nat} {off : Offset} {w : Word} {r : Reg}

/-- A 64-bit write at a multiple of 8 is taken and answered, and then has its effect on the block. -/
theorem step_of_write (halign : off.toNat % 8 = 0) (h : nextIs s m 64 off (.write w)) :
    step s = .next ((taken s m .written).writeOffset off w) := by
  rw [step_of_nextIs h, State.transact_write _ ((Transaction.admitted_iff _).mpr ⟨rfl, halign⟩) rfl]
  rfl

/-- A 64-bit read at a multiple of 8 is taken and answered with the word there. -/
theorem step_of_read (halign : off.toNat % 8 = 0) (h : nextIs s m 64 off .read) :
    step s = .next (taken s m (.data (s.readOffset off))) := by
  rw [step_of_nextIs h, State.transact_read _ ((Transaction.admitted_iff _).mpr ⟨rfl, halign⟩) rfl]
  rfl

theorem State.writeOffset_offset (s : State) (r : Reg) (w : Word) : s.writeOffset r.offset w = s.writeReg r w := by
  rw [State.writeOffset, regAt_offset]

/-- A 64-bit write at a register's offset is that register's write. -/
theorem step_of_register_write (h : nextIs s m 64 r.offset (.write w)) :
    step s = .next ((taken s m .written).writeReg r w) := by
  rw [step_of_write r.offset_aligned.1 h, State.writeOffset_offset]

/-- A CMD write while IDLE is accepted (R71). -/
theorem step_of_cmd_write_idle (hidle : s.fsm = .idle) (h : nextIs s m 64 0x08#8 (.write w)) :
    step s = .next ((taken s m .written).accept w) :=
  (step_of_register_write (r := .cmd) h).trans (congrArg _ (State.issue_of_idle w hidle))

end

/-! ### Command issue and operand writes (R71, R72, R78, R84) -/

/-- Settles O34: the write is an accept, whose latency fields are the ones left open. -/
theorem acceptLatchesCommand : Obligations.AcceptLatchesCommand := by
  unfold Obligations.AcceptLatchesCommand
  exact fun s m w hidle hnext => ⟨_, _, _, step_of_cmd_write_idle hidle hnext⟩

/-- Settles O35: the write is a drop. -/
theorem busyCmdWriteDropped : Obligations.BusyCmdWriteDropped := by
  unfold Obligations.BusyCmdWriteDropped
  exact fun s m w hbusy hnext =>
    (step_of_register_write (r := .cmd) hnext).trans (congrArg _ (State.issue_of_busy w hbusy))

/-- Settles O36: each operand write is its register's. -/
theorem operandWriteStores : Obligations.OperandWriteStores := by
  unfold Obligations.OperandWriteStores
  exact fun s m w => ⟨step_of_register_write (r := .opa), step_of_register_write (r := .opb),
    step_of_register_write (r := .opc)⟩

/-- An operand write touches no latch, neither the engine state nor the witness source (R78, R84). -/
theorem operand_write_keeps {s t : State} {m : Nat} {off : Offset} {w : Word}
    (hoff : off = 0x20#8 ∨ off = 0x28#8 ∨ off = 0x30#8) (hnext : nextIs s m 64 off (.write w))
    (h : step s = .next t) : KeepsFlight s t ∧ t.draws = s.draws ∧ t.freeCount = s.freeCount := by
  obtain ⟨hopa, hopb, hopc⟩ := operandWriteStores s m w
  rcases hoff with rfl | rfl | rfl
  on_goal 1 => rw [hopa hnext] at h
  on_goal 2 => rw [hopb hnext] at h
  on_goal 3 => rw [hopc hnext] at h
  all_goals
    obtain rfl := Host.Outcome.next.inj h
    exact ⟨⟨rfl, rfl, rfl, rfl, rfl, rfl⟩, rfl, rfl⟩

/-- Settles O49: a command's outcome reads only latches and draws, which an operand write keeps; and an accept takes the
operands from their registers. -/
theorem operandWriteKeepsCommandInFlight : Obligations.OperandWriteKeepsCommandInFlight := by
  unfold Obligations.OperandWriteKeepsCommandInFlight
  refine ⟨fun i s t m off w hc hbusy hoff hnext h => ?_, fun s t m w hidle hnext h => ?_⟩
  · obtain ⟨hkeep, hdraws, hcount⟩ := operand_write_keeps hoff hnext h
    exact outcomeReadsLatchesOnly i s t hc hbusy (hkeep.fsm.trans hbusy) hkeep.latA.symm hkeep.latB.symm
      hkeep.latC.symm fun _ => ⟨hdraws.symm, hcount.symm⟩
  · obtain rfl := Host.Outcome.next.inj (h.symm.trans (step_of_cmd_write_idle hidle hnext))
    exact ⟨rfl, rfl, rfl⟩

/-! ### Control operations (R75 to R77) -/

/-- A STATUS write clears DONE where bit 1 is set and OVR where bit 3 is (R75). -/
theorem State.writeStatus_eq_ite (s : State) (w : Word) :
    s.writeStatus w =
      { s with done := if w.getLsbD 1 then false else s.done, ovr := if w.getLsbD 3 then false else s.ovr } := by
  have hclear (d bit : Bool) : (d && !bit) = if bit then false else d := by cases bit <;> simp
  simp only [State.writeStatus, hclear]

/-- Settles O29: ACK, CLROVR and the write at STATUS's offset are one operation, which can only lower DONE and OVR. -/
theorem statusWriteClears : Obligations.StatusWriteClears := by
  unfold Obligations.StatusWriteClears
  intro s w cleared
  have hcleared (t : State) : t.writeStatus w = cleared t := t.writeStatus_eq_ite w
  refine ⟨congrArg _ (hcleared s), congrArg _ (hcleared s), fun hbit1 => ?_, fun hinv hbusy => ?_, fun m hnext => ?_⟩
  · simp [← hcleared, State.irq, hbit1]
  · obtain ⟨hdone, -⟩ := hinv
    have hlow : s.done = false := Bool.eq_false_iff.mpr fun h => by simp [hdone h] at hbusy
    simp [← hcleared, hlow]
  · exact (step_of_register_write (r := .status) hnext).trans (congrArg _ (hcleared _))

/-- Settles O30: EI, DI and the write at CTRL's offset are one operation, which with bit 1 clear only sets IE. -/
theorem ctrlWriteSetsEnable : Obligations.CtrlWriteSetsEnable := by
  unfold Obligations.CtrlWriteSetsEnable
  intro s w hbit1
  have henable (t : State) : t.writeCtrl w = { t with ie := w.getLsbD 0 } := t.writeCtrl_of_not_bit1 hbit1
  exact ⟨congrArg _ (henable s), congrArg _ (henable s), fun m hnext =>
    (step_of_register_write (r := .ctrl) hnext).trans (congrArg _ (henable _))⟩

/-- Settles O31: SRST and the write at CTRL's offset are one operation, which with bit 1 set is the block reset. -/
theorem srstResetsBlock : Obligations.SrstResetsBlock := by
  unfold Obligations.SrstResetsBlock
  intro s w hbit1
  have hreset (t : State) : t.writeCtrl w = t.blockReset := t.writeCtrl_of_bit1 hbit1
  exact ⟨⟨s.blockReset, congrArg _ (hreset s), s.blockReset_atReset, rfl, rfl, rfl⟩, fun m hnext =>
    ⟨(taken s m .written).blockReset, (step_of_register_write (r := .ctrl) hnext).trans (congrArg _ (hreset _)),
      State.blockReset_atReset _, rfl, rfl, rfl⟩⟩

/-! ### Ignored writes (R79) -/

/-- A write at the offset of ID or of a result, or at a reserved one, leaves the block as it is. -/
theorem State.writeOffset_ignored (s : State) {off : Offset} (w : Word)
    (hoff : off.toNat ∈ [0x00, 0x38, 0x40, 0x48, 0x50] ∨ 0x58 ≤ off.toNat) : s.writeOffset off w = s := by
  cases hreg : regAt off with
  | none => simp only [State.writeOffset, hreg]
  | some r =>
    rw [offset_of_regAt hreg] at hoff ⊢
    rw [State.writeOffset_offset]
    cases r with
    | id | res0 | res1 | res2 => rfl
    | cmd | status | ctrl | opa | opb | opc => exact absurd hoff (by decide)

/-- Settles O37: the write is taken and answered, and is ignored. -/
theorem ignoredWrites : Obligations.IgnoredWrites := by
  unfold Obligations.IgnoredWrites
  intro s m off w halign hoff hnext
  rw [step_of_write halign hnext, State.writeOffset_ignored _ w hoff]

/-! ### Reads (R80) -/

/-- The STATUS word as a sum, each field at the weight of its lowest bit (R17 to R23). -/
theorem State.statusWord_eq_sum (s : State) :
    s.statusWord = BitVec.ofNat 64 ((if s.fsm = .busy then 1 else 0) + s.done.toNat * 2 + s.err.toNat * 4 +
      s.ovr.toNat * 8 + s.errcode.toNat * 256 + s.errdetail.toNat * 65536) := by
  have hbusy : s.busyBit.toNat = if s.fsm = .busy then 1 else 0 := by
    unfold State.busyBit
    split_ifs with h <;> simp [h]
  have hdone := s.done.toNat_lt
  have herr := s.err.toNat_lt
  have hovr := s.ovr.toNat_lt
  have hbit := s.busyBit.toNat_lt
  have hcode := s.errcode.isLt
  have hdetail := s.errdetail.isLt
  apply BitVec.eq_of_toNat_eq
  simp only [State.statusWord, toNat_append_add, BitVec.toNat_ofBool, BitVec.toNat_ofNat, ← hbusy]
  omega

/-- The CTRL word is IE (R24 to R26). -/
theorem State.ctrlWord_eq (s : State) : s.ctrlWord = BitVec.ofNat 64 s.ie.toNat := by
  unfold State.ctrlWord
  cases s.ie <;> rfl

/-- Settles O38: by the offset, the register there is read, and none at a reserved offset. -/
theorem readReturnsRegister : Obligations.ReadReturnsRegister := by
  unfold Obligations.ReadReturnsRegister
  intro s m off halign hnext
  rw [step_of_read halign hnext]
  congr 3
  have hread (r : Reg) (h : off.toNat = r.offset.toNat) : s.readOffset off = s.readReg r := by
    rw [BitVec.eq_of_toNat_eq h, State.readOffset_offset]
  split
  · exact hread .id ‹_›
  · exact hread .cmd ‹_›
  · exact (hread .status ‹_›).trans s.statusWord_eq_sum
  · exact (hread .ctrl ‹_›).trans s.ctrlWord_eq
  · exact hread .opa ‹_›
  · exact hread .opb ‹_›
  · exact hread .opc ‹_›
  · exact hread .res0 ‹_›
  · exact hread .res1 ‹_›
  · exact hread .res2 ‹_›
  · have hnone : regAt off = none := by
      unfold regAt
      split
      iterate 10 · contradiction
      · rfl
    simp only [State.readOffset, hnone]

/-! ### A table word placed for the next step (log 12) -/

/-- A table word that decodes to `i` is the word `i` is encoded as, at its own offset. -/
theorem decodeWrite_of_decodeTableWord {nbits w : Nat} {i : Instr} (h : decodeTableWord nbits w = some i) :
    decodeWrite (encodeOffset i) (encodeWord i) = .ok i := by
  have hdecode : decodeWrite (tableOffset nbits (BitVec.ofNat 64 w)) (BitVec.ofNat 64 w) = .ok i := by
    have hbytes := decodeBytes_bytesOfWord (tableOffset nbits (BitVec.ofNat 64 w)) (BitVec.ofNat 64 w) []
    rw [List.append_nil] at hbytes
    simp only [decodeTableWord, hbytes] at h
    cases hw : decodeWrite (tableOffset nbits (BitVec.ofNat 64 w)) (BitVec.ofNat 64 w) with
    | ok j =>
      rw [hw] at h
      exact congrArg _ (Option.some.inj h)
    | error e =>
      rw [hw] at h
      exact absurd h.symm (Option.some_ne_none i)
  obtain ⟨-, hoff, hword⟩ := encodeDecodeRoundTrip _ _ _ hdecode
  rw [hoff, hword, hdecode]

/-- Which register each row is written to. -/
theorem rowOffset_statement : ∀ i : Instr, Laws.RowOffset.Statement i
  | .gcd => Laws.RowOffset.gcd
  | .xgcd => Laws.RowOffset.xgcd
  | .modpow => Laws.RowOffset.modpow
  | .modinv => Laws.RowOffset.modinv
  | .primeTd => Laws.RowOffset.primeTd
  | .primeFermat rounds => Laws.RowOffset.primeFermat rounds
  | .fermatWitness => Laws.RowOffset.fermatWitness
  | .illegal w => Laws.RowOffset.illegal w
  | .ack w => Laws.RowOffset.ack w
  | .clrovr w => Laws.RowOffset.clrovr w
  | .ei w => Laws.RowOffset.ei w
  | .di w => Laws.RowOffset.di w
  | .srst w => Laws.RowOffset.srst w

/-- A command word is placed in flight, and it is the engine's turn. -/
theorem State.place_at_cmdOffset (s : State) {i : Instr} (hoff : encodeOffset i = cmdOffset) :
    (s.place i).latCmd = encodeWord i ∧ (s.place i).engineTurn = true := by
  rw [State.place, if_pos hoff, State.engineTurn_iff]
  exact ⟨rfl, rfl, .inl rfl⟩

/-- A control row is placed as the host's next write, and taking it leaves the state it was placed in. -/
theorem State.place_at_control_offset (s : State) {i : Instr} (hoff : encodeOffset i ≠ cmdOffset) :
    nextIs (s.place i) 0 64 (encodeOffset i) (.write (encodeWord i)) ∧
      taken (s.place i) 0 .written = { s with responses := (0, .written) :: s.responses } := by
  rw [State.place, if_neg hoff]
  refine ⟨⟨?_, rfl⟩, rfl⟩
  simp [State.engineTurn]

/-- Settles O7: the step after the placing runs the row whose word was placed, which is the row that was decoded. -/
theorem fetchWordIsRunNext : Obligations.FetchWordIsRunNext := by
  unfold Obligations.FetchWordIsRunNext
  intro s nbits w i hdecode
  have hplace : s.withFetchWord nbits w = s.place i := by simp only [State.withFetchWord, hdecode]
  have hrow := decodeWrite_of_decodeTableWord hdecode
  obtain ⟨hcmd, hctrl, -⟩ := rowOffset_statement i
  rw [hplace]
  refine ⟨fun hc => ?_, fun hc => ?_⟩
  · rw [hcmd hc] at hrow
    have hword : decodeCommand (encodeWord i) = i := Except.ok.inj hrow
    obtain ⟨hlat, hturn⟩ := s.place_at_cmdOffset (hcmd hc)
    rw [step_of_engineTurn hturn, hlat, hword]
  · have hoff : encodeOffset i ≠ cmdOffset := by rcases hctrl hc with h | h <;> rw [h] <;> decide
    obtain ⟨hnext, htaken⟩ := s.place_at_control_offset hoff
    rw [stepRunsDecodedControlWrite _ _ _ _ i hnext (hctrl hc) hrow, htaken]

end Sys2Proof.Machine

/-! # The GCD family: what GCD and XGCD answer, and what the answers mean (41_gcd.md) -/

namespace Sys2Proof.Machine

open Sys2Proof.Claims

/-! ### The checks that GCD and XGCD share (R109) -/

theorem gcdResult_raise {a b : Int} {c : Cause} (h : euclidError a b = some c) : gcdResult a b = .raise c := by
  simp only [gcdResult, h]

theorem xgcdResult_raise {a b : Int} {c : Cause} (h : euclidError a b = some c) : xgcdResult a b = .raise c := by
  simp only [xgcdResult, h]

/-- `s.a` and `s.b` are the latches' values; a check that fails is the completion with its codes. -/
theorem complete_of_euclid_checks {s u : State} {r : CmdResult} (hbusy : s.fsm = .busy)
    (hraise : ∀ c, euclidError s.a s.b = some c → r = .raise c)
    (hpass : euclidError s.a s.b = none → s.finish r = u) :
    complete r s = .next
      (if s.latA.toInt = minInt ∨ s.latB.toInt = minInt then failed s 3#4 1#8
      else if s.latA.toInt = 0 ∧ s.latB.toInt = 0 then failed s 1#4 1#8
      else if s.latA.toInt.natAbs < s.latB.toInt.natAbs then failed s 1#4 2#8
      else u) := by
  have hfail : ∀ c, euclidError s.a s.b = some c → s.finish r = failed s c.kind.code c.detail := fun c hc => by
    rw [hraise c hc, State.finish_raise_eq_failed]
  rw [complete_of_busy r hbusy]
  simp only [euclidError, Int.natAbs_eq_zero] at hfail hpass
  congr 1
  split_ifs with hmin hboth horder
  · exact hfail .operandMin (if_pos hmin)
  · exact hfail .bothZero ((if_neg hmin).trans (if_pos hboth))
  · exact hfail .order ((if_neg hmin).trans ((if_neg hboth).trans (if_pos horder)))
  · exact hpass ((if_neg hmin).trans ((if_neg hboth).trans (if_neg horder)))

/-- A completion of GCD or XGCD without an error passed the checks. -/
theorem euclidError_none_of_success {s t : State} {r : CmdResult} (h : complete r s = .next t) (herr : t.err = false)
    (hraise : ∀ c, euclidError s.a s.b = some c → r = .raise c) :
    s.fsm = .busy ∧ euclidError s.a s.b = none ∧ t = s.finish r := by
  obtain ⟨hbusy, rfl⟩ := complete_next h
  refine ⟨hbusy, ?_, rfl⟩
  cases hc : euclidError s.a s.b with
  | none => rfl
  | some c =>
    rw [hraise c hc] at herr
    exact absurd herr (by simp)

/-- A latched operand is a signed 64-bit integer (R60, R61). -/
theorem State.a_inInt64 (s : State) : inInt64 s.a = true := inInt64_int64 s.latA

/-! ### GCD (R86, R87) -/

/-- A natural number's word is the same whether it is taken as an integer or not (R8). -/
theorem word64_natCast (n : Nat) : word64 n = BitVec.ofNat 64 n := BitVec.ofInt_natCast 64 n

/-- Settles O8: the checks that fail raise their errors, and where they pass Euclid's loop has Mathlib's gcd. -/
theorem gcdOutcome : Obligations.GcdOutcome := by
  unfold Obligations.GcdOutcome
  refine ⟨by decide, fun s hbusy =>
    complete_of_euclid_checks (r := gcdResult s.a s.b) hbusy (fun _ => gcdResult_raise) fun hpass => ?_⟩
  rw [gcdResult_ok hpass, ← word64_natCast]
  rfl

/-- The state that a successful GCD leaves. -/
theorem exec_gcd_success {s t : State} (h : exec .gcd s = .next t) (herr : t.err = false) :
    euclidError s.a s.b = none ∧ t = s.finish (.ok (Int.gcd s.a s.b) 0 0) := by
  obtain ⟨-, hpass, ht⟩ := euclidError_none_of_success (r := gcdResult s.a s.b) h herr fun _ => gcdResult_raise
  exact ⟨hpass, gcdResult_ok hpass ▸ ht⟩

theorem gcd_pos_of_pass {a b : Int} (h : euclidError a b = none) : 0 < Int.gcd a b := by
  obtain ⟨-, -, hboth, -⟩ := euclidError_none.mp h
  exact Int.gcd_pos_iff.mpr (by omega)

/-- Settles O9: RES0 is Mathlib's gcd, which is positive, so what divides it is not above it. -/
theorem gcdIsGreatestCommonDivisor : Obligations.GcdIsGreatestCommonDivisor := by
  unfold Obligations.GcdIsGreatestCommonDivisor
  intro s t h herr
  obtain ⟨hpass, rfl⟩ := exec_gcd_success h herr
  have hres : (s.finish (.ok (Int.gcd s.a s.b) 0 0)).res0.toInt = Int.gcd s.a s.b :=
    int64_word64 (gcd_inInt64 s.a_inInt64 hpass)
  rw [hres]
  refine ⟨Int.gcd_dvd_left _ _, Int.gcd_dvd_right _ _, fun d ha hb => ?_⟩
  have hdvd : d ∣ Int.gcd s.a s.b := Int.dvd_coe_gcd ha hb
  exact ⟨hdvd, Int.le_of_dvd (Int.natCast_pos.mpr (gcd_pos_of_pass hpass)) hdvd⟩

/-! ### The loop of XGCD (R88, R89) -/

/-- The model's loop is R88's: y falls at every step, so the count outlasts the remainders. -/
theorem pulverized_pulverizer : ∀ (fuel x y : Nat) (s t : Int × Int), y < fuel →
    Pulverized x y s t (pulverizer fuel x y s t).1 (pulverizer fuel x y s t).2
  | 0, _, _, _, _, h => absurd h (Nat.not_lt_zero _)
  | fuel + 1, x, y, s, t, h => by
    unfold pulverizer
    split
    · next hy =>
      subst hy
      exact .stop x s t
    · next hy =>
      have hlt : x % y < y := Nat.mod_lt _ (Nat.pos_of_ne_zero hy)
      exact .step x y s t _ _ hy (pulverized_pulverizer fuel y (x % y) t _ (by omega))

/-- One step of R88 keeps the linear relations of the pairs: the next remainder is `x - y*q` (R89). -/
theorem pulverized_step_linear {a b : Int} {x y : Nat} {s t : Int × Int} (hs : s.1 * a + s.2 * b = x)
    (ht : t.1 * a + t.2 * b = y) :
    (s.1 - t.1 * (((x - x % y) / y : Nat) : Int)) * a + (s.2 - t.2 * (((x - x % y) / y : Nat) : Int)) * b =
      ((x % y : Nat) : Int) := by
  rw [exact_quotient]
  have hmod : ((x % y : Nat) : Int) = x - y * (x / y : Nat) := by
    rw [Int.natCast_mod, Int.natCast_div, Int.emod_def]
  rw [hmod, ← hs, ← ht]
  ring

/-- The loop of R88 ends with the gcd's pair (R89). -/
theorem Pulverized.linear {a b : Int} {x y g : Nat} {s t c : Int × Int} (h : Pulverized x y s t g c)
    (hs : s.1 * a + s.2 * b = x) (ht : t.1 * a + t.2 * b = y) : c.1 * a + c.2 * b = g := by
  induction h with
  | stop x s t => exact hs
  | step x y s t g c hy next ih => exact ih ht (pulverized_step_linear hs ht)

/-! ### XGCD (R88 to R90) -/

/-- The loop of R88 as XGCD starts it on its operands, with as many steps as it can need. -/
def xgcdLoop (a b : Int) : Nat × Int × Int := pulverizer (b.natAbs + 1) a.natAbs b.natAbs (1, 0) (0, 1)

theorem xgcdLoop_pulverized (a b : Int) :
    Pulverized a.natAbs b.natAbs (1, 0) (0, 1) (xgcdLoop a b).1 (xgcdLoop a b).2 :=
  pulverized_pulverizer _ _ _ _ _ (Nat.lt_succ_self _)

/-- Where the checks pass, XGCD answers the loop's pair after the sign fix-up: RESULT_RANGE is not raised (R88, R90). -/
theorem xgcdResult_eq_xgcdLoop {a b : Int} (ha : inInt64 a = true) (h : euclidError a b = none) :
    xgcdResult a b = .ok (signFix a (xgcdLoop a b).2.1) (signFix b (xgcdLoop a b).2.2) (xgcdLoop a b).1 := by
  obtain ⟨s0, s1, hloop, hresult, -⟩ := xgcdResult_ok ha h
  rw [xgcdLoop, hloop, hresult]

/-- Settles O10: whatever the checks say the loop has its pair, and where they pass that pair is the answer. -/
theorem xgcdFollowsIteration : Obligations.XgcdFollowsIteration := by
  unfold Obligations.XgcdFollowsIteration
  refine ⟨by decide, fun s hbusy => ⟨(xgcdLoop s.a s.b).1, (xgcdLoop s.a s.b).2, xgcdLoop_pulverized s.a s.b,
    complete_of_euclid_checks (r := xgcdResult s.a s.b) hbusy (fun _ => xgcdResult_raise) fun hpass => ?_⟩⟩
  rw [xgcdResult_eq_xgcdLoop s.a_inInt64 hpass, ← word64_natCast]
  rfl

/-- The registers that a successful XGCD leaves: RES2 is the gcd, and the coefficients satisfy Bezout's equation and
the bounds of R90. -/
theorem exec_xgcd_success {s t : State} (h : exec .xgcd s = .next t) (herr : t.err = false) :
    s.fsm = .busy ∧ euclidError s.a s.b = none ∧ t.res2 = word64 (Int.gcd s.a s.b) ∧
    t.res0.toInt * s.a + t.res1.toInt * s.b = t.res2.toInt ∧
    t.res0.toInt.natAbs ≤ max 1 (s.b.natAbs / Int.gcd s.a s.b) ∧
    t.res1.toInt.natAbs ≤ s.a.natAbs / Int.gcd s.a s.b := by
  obtain ⟨hbusy, hpass, rfl⟩ :=
    euclidError_none_of_success (r := xgcdResult s.a s.b) h herr fun _ => xgcdResult_raise
  have hfits := xgcdResult_fits s.b s.a_inInt64
  obtain ⟨s0, s1, -, hresult, hbezout, hbound0, hbound1⟩ := xgcdResult_ok s.a_inInt64 hpass
  rw [hresult] at hfits ⊢
  obtain ⟨hfit0, hfit1, hfit2⟩ := hfits
  have hres0 : (word64 (signFix s.a s0)).toInt = signFix s.a s0 := int64_word64 hfit0
  have hres1 : (word64 (signFix s.b s1)).toInt = signFix s.b s1 := int64_word64 hfit1
  have hres2 : (word64 (Int.gcd s.a s.b)).toInt = Int.gcd s.a s.b := int64_word64 hfit2
  refine ⟨hbusy, hpass, rfl, ?_, ?_, ?_⟩
  · simpa [hres0, hres1, hres2] using hbezout
  · simpa [hres0] using hbound0
  · simpa [hres1] using hbound1

/-- Settles O11: GCD has the same checks and the same gcd, and the loop keeps its relations step by step. -/
theorem xgcdBezout : Obligations.XgcdBezout := by
  unfold Obligations.XgcdBezout
  refine ⟨fun s t h herr => ?_, fun a b x y s t _ => pulverized_step_linear, fun a b x y g s t c => Pulverized.linear⟩
  obtain ⟨hbusy, hpass, hres2, hbezout, -⟩ := exec_xgcd_success h herr
  refine ⟨hbezout, s.finish (gcdResult s.a s.b), complete_of_busy _ hbusy, ?_⟩
  rw [gcdResult_ok hpass, hres2]
  exact ⟨rfl, rfl⟩

/-- Settles O12, from the bound that each step of the loop keeps. -/
theorem xgcdCoefficientBound : Obligations.XgcdCoefficientBound := by
  unfold Obligations.XgcdCoefficientBound
  intro s t h herr
  obtain ⟨-, -, -, -, hbound⟩ := exec_xgcd_success h herr
  exact hbound

end Sys2Proof.Machine

/-! # The modular family: what MODPOW and MODINV answer, and what the answers mean (42_modular.md) -/

namespace Sys2Proof.Machine

open Sys2Proof.Claims

/-- The second latched operand, like the first, is a signed 64-bit integer (R60, R61). -/
theorem State.b_inInt64 (s : State) : inInt64 s.b = true := inInt64_int64 s.latB

/-- The third latched operand is a signed 64-bit integer too (R60, R61). -/
theorem State.c_inInt64 (s : State) : inInt64 s.c = true := inInt64_int64 s.latC

/-- The completion takes the branch that the result took. -/
theorem State.finish_ite (s : State) (p : Prop) [Decidable p] (r r' : CmdResult) :
    s.finish (if p then r else r') = if p then s.finish r else s.finish r' :=
  apply_ite (fun result => s.finish result) p r r'

/-! ### MODPOW (R92, R93) -/

/-- MODPOW's checks in their order, and the power itself, reduced, where they pass (R92, R93). -/
theorem modpowResult_eq (k m : Int) {e : Int} (he : inInt64 e = true) :
    modpowResult k e m =
      if e < 0 then .raise .negExponent
      else if m ≤ 0 then .raise .modulusNonpositive
      else .ok (k ^ e.toNat % m) 0 0 := by
  rw [inInt64_iff] at he
  unfold modpowResult
  split_ifs with hneg hmod
  · rfl
  · rfl
  · rw [powMod_eq k (not_le.mp hmod) (by omega)]

/-- The loop of R92 from `1 mod m`: after `n` rounds it holds the `n`-th power, reduced. -/
theorem iterate_mul_emod (k m : Int) (n : Nat) : (fun r : Int => r * (k % m) % m)^[n] (1 % m) = k ^ n % m := by
  induction n with
  | zero => rw [Function.iterate_zero_apply, pow_zero]
  | succ n ih => rw [Function.iterate_succ_apply', ih, ← Int.mul_emod, pow_succ]

/-- Settles O13: the checks in their order, and where they pass the loop and the model both have the reduced power. -/
theorem modpowRunsTheLoop : Obligations.ModpowRunsTheLoop := by
  unfold Obligations.ModpowRunsTheLoop
  refine ⟨by decide, fun s hbusy => ?_⟩
  have hexec : exec .modpow s = .next (s.finish (modpowResult s.a s.b s.c)) := complete_of_busy _ hbusy
  rw [hexec, modpowResult_eq s.a s.c s.b_inInt64, iterate_mul_emod, State.finish_ite, State.finish_ite]
  rfl

/-- Settles O14: the result is the reduced power, and its register holds it because it is below the modulus. -/
theorem modpowIsPower : Obligations.ModpowIsPower := by
  unfold Obligations.ModpowIsPower
  intro s hbusy (he : 0 ≤ s.b) (hm : 0 < s.c)
  have hlow : 0 ≤ s.a ^ s.b.toNat % s.c := Int.emod_nonneg _ hm.ne'
  have hhigh : s.a ^ s.b.toNat % s.c < s.c := Int.emod_lt_of_pos _ hm
  have hres : (word64 (s.a ^ s.b.toNat % s.c)).toInt = s.a ^ s.b.toNat % s.c :=
    int64_word64 (inInt64_of_le s.c_inInt64 hlow hhigh.le)
  refine ⟨s.finish (modpowResult s.a s.b s.c), complete_of_busy _ hbusy, ?_⟩
  rw [modpowResult_eq s.a s.c s.b_inInt64, if_neg (not_lt.mpr he), if_neg (not_le.mpr hm)]
  exact ⟨rfl, hres, hlow.trans_eq hres.symm, hres.trans_lt hhigh⟩

/-! ### Inverses modulo m (R96) -/

/-- Bezout's coefficient of `k` is an inverse of `k` (R94). -/
theorem dvd_mul_sub_one_of_bezout {k m u c : Int} (h : u * m + c * k = 1) : m ∣ k * c - 1 :=
  ⟨-u, by linear_combination h⟩

/-- An inverse stays one when it is brought into `[0, m)` (C2). -/
theorem dvd_mul_emod_sub_one {k m c : Int} (h : m ∣ k * c - 1) : m ∣ k * (c % m) - 1 := by
  rw [← Int.modEq_iff_dvd] at h ⊢
  exact h.trans ((Int.mod_modEq c m).symm.mul_left k)

/-- Two inverses of `k` agree modulo `m`: each is the other times `k` times itself. -/
theorem emod_eq_of_inverses {k m x y : Int} (hx : m ∣ k * x - 1) (hy : m ∣ k * y - 1) : x % m = y % m := by
  rw [← Int.modEq_iff_dvd] at hx hy
  calc x = x * 1 := (mul_one x).symm
    _ ≡ x * (k * y) [ZMOD m] := hy.mul_left x
    _ = k * x * y := by ring
    _ ≡ 1 * y [ZMOD m] := hx.symm.mul_right y
    _ = y := one_mul y

/-- The inverse of `k` in `[0, m)`, by Mathlib's own Bezout coefficients; its value is of use where `gcd(m, k) = 1`. -/
def inverseMod (k m : Int) : Int := Int.gcdB m k % m

theorem dvd_mul_gcdB_sub_one {k m : Int} (h : Int.gcd m k = 1) : m ∣ k * Int.gcdB m k - 1 := by
  have hbezout := Int.gcd_eq_gcd_ab m k
  rw [h, Nat.cast_one] at hbezout
  exact dvd_mul_sub_one_of_bezout (u := Int.gcdA m k) (by rw [hbezout]; ring)

theorem dvd_mul_inverseMod_sub_one {k m : Int} (h : Int.gcd m k = 1) : m ∣ k * inverseMod k m - 1 :=
  dvd_mul_emod_sub_one (dvd_mul_gcdB_sub_one h)

/-- Every inverse of `k` reduces to `inverseMod k m`: R96's uniqueness, and the value of MODINV whichever Bezout
coefficient its loop finds. -/
theorem emod_eq_inverseMod {k m x : Int} (h : Int.gcd m k = 1) (hx : m ∣ k * x - 1) : x % m = inverseMod k m :=
  emod_eq_of_inverses hx (dvd_mul_gcdB_sub_one h)

/-! ### MODINV (R94 to R96) -/

/-- Where its checks pass, XGCD(m, k) answers the gcd, and a coefficient of `k` that is its inverse if there is one. -/
theorem xgcdResult_inverseMod {k m : Int} (hm : inInt64 m = true) (hpass : euclidError m k = none) :
    ∃ c0 c1 : Int, xgcdResult m k = .ok c0 c1 (Int.gcd m k) ∧
      (Int.gcd m k = 1 → floorMod c1 m = inverseMod k m) := by
  obtain ⟨s0, s1, -, hxgcd, hbezout, -⟩ := xgcdResult_ok hm hpass
  refine ⟨signFix m s0, signFix k s1, hxgcd, fun hgcd => ?_⟩
  rw [hgcd, Nat.cast_one] at hbezout
  exact emod_eq_inverseMod hgcd (dvd_mul_sub_one_of_bezout hbezout)

/-- MODINV's checks in their order, the gcd of XGCD's answer last, and the inverse where they pass (R94 to R96). -/
theorem modinvResult_eq (k : Int) {m : Int} (hm : inInt64 m = true) :
    modinvResult k m =
      if k = int64Min ∨ m = int64Min then .raise .operandMin
      else if m ≤ 0 then .raise .modulusNonpositive
      else if m < k.natAbs then .raise .order
      else if Int.gcd m k ≠ 1 then .raise .noInverse
      else .ok (inverseMod k m) 0 0 := by
  unfold modinvResult
  refine ite_congr rfl (fun _ => rfl) fun hmin => ite_congr rfl (fun _ => rfl) fun hmod =>
    ite_congr rfl (fun _ => rfl) fun horder => ?_
  have hpass : euclidError m k = none :=
    euclidError_none_of_order hm (fun h => hmin (.inr h)) (by omega) (by omega)
  obtain ⟨c0, c1, hxgcd, hinverse⟩ := xgcdResult_inverseMod hm hpass
  rw [hxgcd]
  by_cases hgcd : Int.gcd m k = 1
  · simp [hgcd, hinverse hgcd]
  · simp [hgcd]

/-- Settles O15: the checks in their order, and where they pass the one inverse in `[0, m)`. -/
theorem modinvOutcome : Obligations.ModinvOutcome := by
  unfold Obligations.ModinvOutcome
  refine ⟨by decide, fun s hbusy => ⟨inverseMod s.a s.b, fun hpos hgcd => ?_, ?_⟩⟩
  · exact ⟨Int.emod_nonneg _ hpos.ne', Int.emod_lt_of_pos _ hpos, dvd_mul_inverseMod_sub_one hgcd,
      fun y hlow hhigh hy => (Int.emod_eq_of_lt hlow hhigh).symm.trans (emod_eq_inverseMod hgcd hy)⟩
  · have hexec : exec .modinv s = .next (s.finish (modinvResult s.a s.b)) := complete_of_busy _ hbusy
    rw [hexec, modinvResult_eq s.a s.b_inInt64, State.finish_ite, State.finish_ite, State.finish_ite, State.finish_ite]
    rfl

end Sys2Proof.Machine

/-! # The primality family: what its three commands answer, and what the answers mean (43_primality.md) -/

namespace Sys2Proof.Machine

open Sys2Proof.Claims

/-! ### PRIME_TD (R98, R99) -/

/-- Trial division up to the root finds no divisor of a prime: the one it has above 1 is above its root (R98). -/
theorem trialDivide_of_prime {n : Nat} (hn : n < 2 ^ 64) (hp : n.Prime) :
    trialDivide (isqrt n - 1) 2 n = none := by
  obtain ⟨hroot, -⟩ := isqrt_spec hn
  cases hfound : trialDivide (isqrt n - 1) 2 n with
  | none => rfl
  | some k =>
    obtain ⟨htwo, hlt, hdvd, -⟩ := trialDivide_some _ _ hfound
    obtain rfl : k = n := (hp.eq_one_or_self_of_dvd k hdvd).resolve_left (by omega)
    have hle : k * 2 ≤ isqrt k * isqrt k := Nat.mul_le_mul (by omega) (by omega)
    omega

/-- Trial division up to the root finds the smallest divisor of a number that is not prime: its square is at most the
number (R99). -/
theorem trialDivide_of_not_prime {n : Nat} (hn : n < 2 ^ 64) (h1 : 1 < n) (hp : ¬ n.Prime) :
    trialDivide (isqrt n - 1) 2 n = some n.minFac := by
  obtain ⟨-, hroot⟩ := isqrt_spec hn
  have htwo : 2 ≤ n.minFac := (Nat.minFac_prime (by omega)).two_le
  cases hfound : trialDivide (isqrt n - 1) 2 n with
  | none =>
    have hsq : n.minFac * n.minFac ≤ n := sq n.minFac ▸ Nat.minFac_sq_le_self (by omega) hp
    have hlt : n.minFac < isqrt n + 1 := Nat.mul_self_lt_mul_self_iff.mp (hsq.trans_lt hroot)
    exact absurd n.minFac_dvd (trialDivide_none _ _ hfound _ htwo (by omega))
  | some k =>
    obtain ⟨hk, -, hdvd, hleast⟩ := trialDivide_some _ _ hfound
    have hnot : ¬ n.minFac < k := fun hlt => hleast _ htwo hlt n.minFac_dvd
    have hle : n.minFac ≤ k := Nat.minFac_le_of_dvd hk hdvd
    rw [show k = n.minFac by omega]

/-- PRIME_TD above 1: a prime is reported, and of any other number the smallest divisor (R98, R99). -/
theorem primeTdResult_eq {n : Int} (hn : inInt64 n = true) (h1 : 1 < n) :
    primeTdResult n = if n.toNat.Prime then .ok 1 0 0 else .ok 0 n.toNat.minFac 0 := by
  rw [inInt64_iff] at hn
  have hlt : n.toNat < 2 ^ 64 := by omega
  rw [primeTdResult, if_neg (not_le.mpr h1)]
  split_ifs with hp
  · rw [trialDivide_of_prime hlt hp]
  · rw [trialDivide_of_not_prime hlt (by omega) hp]

/-- A number with no divisor between 1 and itself, as the spec writes it, is Mathlib's prime. -/
theorem prime_of_no_divisor {n : Int} (h1 : 1 < n) (hnone : ∀ d : Int, 1 < d → d < n → ¬ d ∣ n) :
    n.toNat.Prime := by
  lift n to Nat using by omega
  rw [Int.toNat_natCast]
  exact Nat.prime_def_lt'.mpr ⟨by omega, fun m htwo hlt hdvd =>
    hnone m (by omega) (by omega) (Int.natCast_dvd_natCast.mpr hdvd)⟩

/-- The smallest divisor above 1, as the spec writes it, is Mathlib's. -/
theorem natCast_minFac_of_least_divisor {n d : Int} (h1 : 1 < n) (hd : 1 < d) (hdvd : d ∣ n)
    (hleast : ∀ e : Int, 1 < e → e < d → ¬ e ∣ n) : (n.toNat.minFac : Int) = d := by
  lift n to Nat using by omega
  lift d to Nat using by omega
  rw [Int.natCast_dvd_natCast] at hdvd
  have htwo : 2 ≤ n.minFac := (Nat.minFac_prime (by omega)).two_le
  have hle : n.minFac ≤ d := Nat.minFac_le_of_dvd (by omega) hdvd
  have hnot : ¬ (n.minFac : Int) < d := fun hlt =>
    hleast _ (by omega) hlt (Int.natCast_dvd_natCast.mpr n.minFac_dvd)
  rw [Int.toNat_natCast]
  omega

/-- Settles O16: the divisor that trial division reports is the smallest above 1, and a prime has none below itself. -/
theorem primeTdIsExact : Obligations.PrimeTdIsExact := by
  unfold Obligations.PrimeTdIsExact
  refine ⟨by decide, fun s hbusy => ?_⟩
  have hexec : exec .primeTd s = .next (s.finish (primeTdResult s.a)) := complete_of_busy _ hbusy
  refine ⟨fun (hsmall : s.a ≤ 1) => ?_, fun (h1 : 1 < s.a) hnone => ?_,
    fun d hd (hlt : d < s.a) hdvd hleast => ?_⟩
  · rw [hexec, primeTdResult, if_pos hsmall]
    rfl
  · rw [hexec, primeTdResult_eq s.a_inInt64 h1, if_pos (prime_of_no_divisor h1 hnone)]
    rfl
  · have h1 : 1 < s.a := hd.trans hlt
    have hmin : (s.a.toNat.minFac : Int) = d := natCast_minFac_of_least_divisor h1 hd hdvd hleast
    have hprime : s.a.toNat.minFac.Prime := Nat.minFac_prime (by omega)
    have hp : ¬ s.a.toNat.Prime := (Nat.not_prime_iff_minFac_lt (by omega)).mpr (by omega)
    refine ⟨by rwa [← hmin], ?_⟩
    rw [hexec, primeTdResult_eq s.a_inInt64 h1, if_neg hp, hmin]
    rfl

/-! ### FERMAT_WITNESS (R102) -/

/-- FERMAT_WITNESS's checks in their order, and the value of the round where they pass (R102). -/
theorem fermatWitnessResult_eq {n : Int} (k : Int) (hn : inInt64 n = true) :
    fermatWitnessResult n k =
      if n ≤ 1 then .raise .nTooSmall
      else if k < 1 ∨ n - 1 < k then .raise .witnessRange
      else .ok (if k ^ (n - 1).toNat % n = 1 then 1 else 0) (k ^ (n - 1).toNat % n) 0 := by
  rw [inInt64_iff] at hn
  unfold fermatWitnessResult
  refine ite_congr rfl (fun _ => rfl) fun hsmall => ite_congr rfl (fun _ => rfl) fun _ => ?_
  rw [powMod_eq k (by omega) (by omega)]

/-- A witness whose round passes has an inverse modulo n, so it shares no factor with n (R102). -/
theorem gcd_eq_one_of_passes {n k : Int} (h1 : 1 < n) (h : passes n k) : Int.gcd k n = 1 := by
  have hmod : k ^ (n - 1).toNat ≡ 1 [ZMOD n] := h.trans (Int.emod_eq_of_lt (by omega) h1).symm
  obtain ⟨q, hq⟩ := hmod.dvd
  have hcoprime : IsCoprime (k ^ (n - 1).toNat) n := ⟨1, q, by linear_combination -hq⟩
  exact Int.isCoprime_iff_gcd_eq_one.mp ((IsCoprime.pow_left_iff (by omega)).mp hcoprime)

/-- Settles O17: the checks in their order, and where they pass the power, which is 1 only for a witness coprime
to n. -/
theorem fermatWitnessOutcome : Obligations.FermatWitnessOutcome := by
  unfold Obligations.FermatWitnessOutcome
  refine ⟨by decide, fun s hbusy => ?_⟩
  have hexec : exec .fermatWitness s = .next (s.finish (fermatWitnessResult s.a s.b)) := complete_of_busy _ hbusy
  rw [fermatWitnessResult_eq s.b s.a_inInt64] at hexec
  refine ⟨?_, fun hgcd => ⟨_, hexec, ?_⟩⟩
  · rw [hexec, State.finish_ite, State.finish_ite, State.finish_ok, State.takeResults, apply_ite word64]
    rfl
  · split_ifs with hsmall hrange hpass
    · rfl
    · rfl
    · exact absurd (gcd_eq_one_of_passes (not_le.mp hsmall) hpass) hgcd
    · rfl

/-! ### PRIME_FERMAT (R100) -/

section
variable {s : State} {r : BitVec 8}

theorem exec_primeFermat_of_all_pass (hbusy : s.fsm = .busy) (h1 : 1 < s.a)
    (hpass : ∀ j, 1 ≤ j → j ≤ roundsRun r → passes s.a (s.draw s.a j)) :
    exec (.primeFermat r) s =
      .next (succeeded (afterRounds s (roundsRun r)) 1#64 0#64 (BitVec.ofNat 64 (roundsRun r))) := by
  have hres : primeFermatResult s.a (roundCount r) (s.draw s.a) = .ok 1 0 (roundsRun r) := by
    rw [roundCount_eq_roundsRun]
    exact primeFermatResult_of_all_pass h1 fun j hj hle =>
      (powMod_eq_one_iff_passes s.a_inInt64 h1 _).mpr (hpass j hj hle)
  exact exec_primeFermat_of_ok hbusy hres

theorem exec_primeFermat_of_first_failure {i : Nat} (hbusy : s.fsm = .busy) (h1 : 1 < s.a) (hi : 1 ≤ i)
    (hle : i ≤ roundsRun r) (hpass : ∀ j, 1 ≤ j → j < i → passes s.a (s.draw s.a j))
    (hfail : ¬ passes s.a (s.draw s.a i)) :
    exec (.primeFermat r) s =
      .next (succeeded (afterRounds s i) 0#64 (BitVec.ofInt 64 (s.draw s.a i)) (BitVec.ofNat 64 i)) := by
  have hround (j : Nat) := powMod_eq_one_iff_passes s.a_inInt64 h1 (s.draw s.a j)
  have hres : primeFermatResult s.a (roundCount r) (s.draw s.a) = .ok 0 (s.draw s.a i) i := by
    rw [roundCount_eq_roundsRun]
    exact primeFermatResult_of_first_failure h1 hi hle (fun j hj hlt => (hround j).mpr (hpass j hj hlt))
      (mt (hround i).mp hfail)
  exact exec_primeFermat_of_ok hbusy hres

end

/-- Of finitely many rounds all pass, or one is the first that fails. -/
theorem all_pass_or_first_failure (n : Int) (d : Nat → Int) (rounds : Nat) :
    (∀ j, 1 ≤ j → j ≤ rounds → passes n (d j)) ∨
    ∃ i, 1 ≤ i ∧ i ≤ rounds ∧ (∀ j, 1 ≤ j → j < i → passes n (d j)) ∧ ¬ passes n (d i) := by
  induction rounds with
  | zero => exact .inl fun j hj hle => absurd hle (by omega)
  | succ rounds ih =>
    obtain hall | ⟨i, hi, hle, hfirst⟩ := ih
    · by_cases hlast : passes n (d (rounds + 1))
      · exact .inl fun j hj hle => (Nat.le_succ_iff.mp hle).elim (hall j hj) fun heq => heq ▸ hlast
      · exact .inr ⟨rounds + 1, by omega, le_rfl, fun j hj hlt => hall j hj (by omega), hlast⟩
    · exact .inr ⟨i, hi, by omega, hfirst⟩

theorem roundsRun_range (r : BitVec 8) : 1 ≤ roundsRun r ∧ roundsRun r ≤ 255 := by
  have hlt := r.isLt
  unfold roundsRun
  split_ifs <;> omega

/-- The word that the spec writes for a ROUNDS field is its encoding (R59, R100). -/
theorem ofNat_rounds_eq_encodeWord (r : BitVec 8) :
    BitVec.ofNat 64 (r.toNat * 256 + 6) = encodeWord (.primeFermat r) := by
  rw [← encodeWord_primeFermat_toNat, BitVec.ofNat_toNat, BitVec.setWidth_eq]

/-- Settles O18: the witnesses are the model's draws, whose rounds all pass or have a first that fails. -/
theorem primeFermatOutcome : Obligations.PrimeFermatOutcome := by
  unfold Obligations.PrimeFermatOutcome
  refine ⟨fun r => ⟨?_, roundsRun_range r⟩, fun s r hbusy =>
    ⟨fun (hsmall : s.a ≤ 1) => ?_, fun (h1 : 1 < s.a) => ?_⟩⟩
  · rw [ofNat_rounds_eq_encodeWord, decodeCommand_primeFermat]
  · rw [exec_primeFermat, primeFermatResult, if_pos hsmall]
    exact complete_of_busy (s := s) _ hbusy
  · have hrange (i : Nat) : 1 ≤ s.draw s.a i ∧ s.draw s.a i ≤ s.a - 1 := draw_range s h1 i
    obtain hall | ⟨i, hi, hle, hpass, hfail⟩ := all_pass_or_first_failure s.a (s.draw s.a) (roundsRun r)
    · exact ⟨s.draw s.a, _, _, fun i _ _ => hrange i, .inl ⟨hall, exec_primeFermat_of_all_pass hbusy h1 hall⟩⟩
    · exact ⟨s.draw s.a, _, _, fun i _ _ => hrange i,
        .inr ⟨i, hi, hle, hpass, hfail, exec_primeFermat_of_first_failure hbusy h1 hi hle hpass hfail⟩⟩

/-! ### PRIME_FERMAT replayed by FERMAT_WITNESS (R103) -/

section
variable {s t : State} {r : BitVec 8}

/-- PRIME_FERMAT reports the witness of round `i` exactly where that round is the first to fail (R100). -/
theorem reports_failure_iff {i : Nat} (h1 : 1 < s.a) (h : exec (.primeFermat r) s = .next t) (hi : 1 ≤ i)
    (hle : i ≤ roundsRun r) :
    (t.res0 = 0#64 ∧ t.res1 = BitVec.ofInt 64 (s.draw s.a i) ∧ t.res2 = BitVec.ofNat 64 i) ↔
      (∀ j, 1 ≤ j → j < i → passes s.a (s.draw s.a j)) ∧ ¬ passes s.a (s.draw s.a i) := by
  have hbusy : s.fsm = .busy := (complete_next h).1
  constructor
  · rintro ⟨hres0, -, hres2⟩
    obtain hall | ⟨k, hk, hkle, hpass, hfail⟩ := all_pass_or_first_failure s.a (s.draw s.a) (roundsRun r)
    · obtain rfl := Host.Outcome.next.inj (h.symm.trans (exec_primeFermat_of_all_pass hbusy h1 hall))
      exact absurd hres0 (show 1#64 ≠ 0#64 by decide)
    · obtain rfl :=
        Host.Outcome.next.inj (h.symm.trans (exec_primeFermat_of_first_failure hbusy h1 hk hkle hpass hfail))
      have hround : k % 2 ^ 64 = i % 2 ^ 64 :=
        congrArg BitVec.toNat (show BitVec.ofNat 64 k = BitVec.ofNat 64 i from hres2)
      have hmax := (roundsRun_range r).2
      obtain rfl : k = i := by omega
      exact ⟨hpass, hfail⟩
  · rintro ⟨hpass, hfail⟩
    obtain rfl :=
      Host.Outcome.next.inj (h.symm.trans (exec_primeFermat_of_first_failure hbusy h1 hi hle hpass hfail))
    exact ⟨rfl, rfl, rfl⟩

/-- PRIME_FERMAT reports a probable prime exactly where every round passes (R100). -/
theorem reports_prime_iff (h1 : 1 < s.a) (h : exec (.primeFermat r) s = .next t) :
    (t.res0 = 1#64 ∧ t.res1 = 0#64 ∧ t.res2 = BitVec.ofNat 64 (roundsRun r)) ↔
      ∀ j, 1 ≤ j → j ≤ roundsRun r → passes s.a (s.draw s.a j) := by
  have hbusy : s.fsm = .busy := (complete_next h).1
  constructor
  · rintro ⟨hres0, -, -⟩
    obtain hall | ⟨k, hk, hkle, hpass, hfail⟩ := all_pass_or_first_failure s.a (s.draw s.a) (roundsRun r)
    · exact hall
    · obtain rfl :=
        Host.Outcome.next.inj (h.symm.trans (exec_primeFermat_of_first_failure hbusy h1 hk hkle hpass hfail))
      exact absurd hres0 (show 0#64 ≠ 1#64 by decide)
  · intro hall
    obtain rfl := Host.Outcome.next.inj (h.symm.trans (exec_primeFermat_of_all_pass hbusy h1 hall))
    exact ⟨rfl, rfl, rfl⟩

end

/-- The round that FERMAT_WITNESS runs on the witness `k` in OPB's latch, with all else as in `s`. -/
def witnessRound (s : State) (k : Int) : State :=
  { s with latB := BitVec.ofInt 64 k }.finish (fermatWitnessResult s.a k)

/-- A word holds a legal witness as it is, so FERMAT_WITNESS runs on it. -/
theorem exec_fermatWitness_witnessRound {s : State} {k : Int} (hbusy : s.fsm = .busy) (hlow : 1 ≤ k)
    (hhigh : k ≤ s.a - 1) :
    exec .fermatWitness { s with latB := BitVec.ofInt 64 k } = .next (witnessRound s k) := by
  have hk : int64 (word64 k) = k := int64_word64 (inInt64_of_le s.a_inInt64 (by omega) (by omega))
  have hexec : exec .fermatWitness { s with latB := BitVec.ofInt 64 k } =
      complete (fermatWitnessResult s.a (int64 (word64 k))) { s with latB := BitVec.ofInt 64 k } := rfl
  rw [hexec, hk]
  exact complete_of_busy (s := { s with latB := BitVec.ofInt 64 k }) _ hbusy

/-- RES0 of a legal round says whether it passes (R102). -/
theorem witnessRound_res0 {s : State} {k : Int} (h1 : 1 < s.a) (hlow : 1 ≤ k) (hhigh : k ≤ s.a - 1) :
    ((witnessRound s k).res0 = 1#64 ↔ passes s.a k) ∧ ((witnessRound s k).res0 = 0#64 ↔ ¬ passes s.a k) := by
  rw [witnessRound, fermatWitnessResult_eq k s.a_inInt64, if_neg (by omega), if_neg (by omega), passes]
  split_ifs with hpass
  · exact ⟨iff_of_true rfl hpass, iff_of_false (show 1#64 ≠ 0#64 by decide) (not_not_intro hpass)⟩
  · exact ⟨iff_of_false (show 0#64 ≠ 1#64 by decide) hpass, iff_of_true rfl hpass⟩

/-- Settles O20: a round of FERMAT_WITNESS on the j-th draw passes exactly where the j-th round of PRIME_FERMAT does. -/
theorem fermatRunReplays : Obligations.FermatRunReplays := by
  unfold Obligations.FermatRunReplays
  intro s t r (h1 : 1 < s.a) h
  have hbusy : s.fsm = .busy := (complete_next h).1
  have hrange (j : Nat) : 1 ≤ s.draw s.a j ∧ s.draw s.a j ≤ s.a - 1 := draw_range s h1 j
  have hres0 (j : Nat) := witnessRound_res0 h1 (hrange j).1 (hrange j).2
  refine ⟨fun j => witnessRound s (s.draw s.a j), fun j =>
    exec_fermatWitness_witnessRound hbusy (hrange j).1 (hrange j).2, fun i hi hle => ?_, ?_⟩
  · simp only [hres0]
    exact reports_failure_iff h1 h hi hle
  · simp only [hres0]
    exact reports_prime_iff h1 h

/-! ### The Fermat test errs on one side only (R104) -/

/-- Fermat's little theorem: a prime passes with every legal witness. -/
theorem passes_of_prime {n k : Int} (hp : n.toNat.Prime) (hlow : 1 ≤ k) (hhigh : k ≤ n - 1) : passes n k := by
  lift n to Nat using by omega
  rw [Int.toNat_natCast] at hp
  have hnot : ¬ (n : Int) ∣ k := fun hdvd => absurd (Int.le_of_dvd (by omega) hdvd) (by omega)
  have hcoprime : IsCoprime k n := ((Nat.prime_iff_prime_int.mp hp).coprime_iff_not_dvd.mpr hnot).symm
  have hfermat : k ^ (n - 1) % n = 1 % n := Int.ModEq.pow_card_sub_one_eq_one hp hcoprime
  rw [passes, show ((n : Int) - 1).toNat = n - 1 by omega, hfermat]
  exact Int.emod_eq_of_lt (by omega) (by omega)

/-- The witness 1 passes for every n (R100). -/
theorem passes_one {n : Int} (h1 : 1 < n) : passes n 1 := by
  rw [passes, one_pow]
  exact Int.emod_eq_of_lt (by omega) h1

/-- Settles O21: a prime passes with whatever is drawn, and the draws of a tape of ones are 1. -/
theorem fermatErrsOnOneSide : Obligations.FermatErrsOnOneSide := by
  unfold Obligations.FermatErrsOnOneSide
  refine fun s r hbusy => ⟨fun (hp : s.a.toNat.Prime) => ?_, fun (hp : s.a.toNat.Prime) (hlow : 1 ≤ s.b)
    (hhigh : s.b ≤ s.a - 1) => ?_, fun (h1 : 1 < s.a) htape => ?_⟩
  · have h1 : 1 < s.a := Int.lt_toNat.mp hp.one_lt
    refine exec_primeFermat_of_all_pass hbusy h1 fun j _ _ => ?_
    obtain ⟨hlow, hhigh⟩ := draw_range s h1 j
    exact passes_of_prime hp hlow hhigh
  · have hpass : s.b ^ (s.a - 1).toNat % s.a = 1 := passes_of_prime hp hlow hhigh
    have hexec : exec .fermatWitness s = .next (s.finish (fermatWitnessResult s.a s.b)) := complete_of_busy _ hbusy
    rw [hexec, fermatWitnessResult_eq s.b s.a_inInt64, if_neg (by omega), if_neg (by omega), hpass]
    rfl
  · refine exec_primeFermat_of_all_pass hbusy h1 fun j hj hle => ?_
    have hentry : s.draws[j - 1]? = some 1 := by
      rw [htape, List.getElem?_replicate_of_lt (by omega)]
    rw [draw_of_tape hentry le_rfl (by omega)]
    exact passes_one h1

end Sys2Proof.Machine

/-! # Exceptions and the interrupt: the master of a transaction, and what lowers irq (60_exceptions.md) -/

namespace Sys2Proof.Machine

open Sys2Proof.Claims

/-! ### The master of a transaction (R115) -/

/-- The bus's answers are no part of the block (log 13). -/
theorem sameBlock_respond (s : State) (m m' : Nat) (r r' : Response) :
    sameBlock (s.respond m r) (s.respond m' r') := by simp [sameBlock]

/-- A bus error changes nothing in the block, whoever caused it (R40). -/
theorem sameBlock_refuse (s : State) (x x' : Transaction) : sameBlock (s.refuse x) (s.refuse x') := by
  simp [sameBlock]

/-- No write reads or changes the bus's answers, so it does not matter that the bus answers first. -/
theorem State.writeOffset_respond (s : State) (m : Nat) (r : Response) (off : Offset) (w : Word) :
    (s.respond m r).writeOffset off w = (s.writeOffset off w).respond m r := by
  unfold State.writeOffset
  cases regAt off with
  | none => rfl
  | some reg =>
    cases reg with
    | cmd =>
      show (s.respond m r).issue w = (s.issue w).respond m r
      cases hfsm : s.fsm with
      | idle => rw [State.issue_of_idle w hfsm, State.issue_of_idle w (s.respond_fsm m r ▸ hfsm)]; rfl
      | busy => rw [State.issue_of_busy w hfsm, State.issue_of_busy w (s.respond_fsm m r ▸ hfsm)]; rfl
    | ctrl =>
      show (s.respond m r).writeCtrl w = (s.writeCtrl w).respond m r
      cases hbit1 : w.getLsbD 1 with
      | false => simp only [State.writeCtrl_of_not_bit1 _ hbit1]; rfl
      | true => simp only [State.writeCtrl_of_bit1 _ hbit1]; rfl
    | id | status | opa | opb | opc | res0 | res1 | res2 => rfl

/-- The master of a transaction decides only to whom the bus answers and whose fault is recorded. -/
theorem sameBlock_transact (s : State) (m m' width : Nat) (off : Offset) (acc : Access) :
    sameBlock (s.transact ⟨m, width, off, acc⟩) (s.transact ⟨m', width, off, acc⟩) := by
  have hsame : (Transaction.mk m' width off acc).admitted = (Transaction.mk m width off acc).admitted := rfl
  cases hadm : (Transaction.mk m width off acc).admitted with
  | false =>
    rw [s.transact_of_refused hadm, s.transact_of_refused (hsame.trans hadm)]
    exact sameBlock_refuse s _ _
  | true =>
    cases acc with
    | read =>
      rw [s.transact_read hadm rfl, s.transact_read (hsame.trans hadm) rfl]
      exact sameBlock_respond s _ _ _ _
    | write w =>
      rw [s.transact_write hadm rfl, s.transact_write (hsame.trans hadm) rfl, State.writeOffset_respond,
        State.writeOffset_respond]
      exact sameBlock_respond _ _ _ _ _

/-- Another transaction in the place of the next one is the next one: the turn is still the host's. -/
theorem nextIs_of_replaced_head {s : State} {m width : Nat} {off : Offset} {acc : Access}
    (h : nextIs s m width off acc) (m' width' : Nat) (off' : Offset) (acc' : Access) :
    nextIs { s with host := .access ⟨m', width', off', acc'⟩ :: s.host.tail } m' width' off' acc' := by
  obtain ⟨hturn, hhead⟩ := h
  obtain ⟨rest, hhost⟩ := List.head?_eq_some_iff.mp hhead
  exact ⟨by simpa [State.engineTurn, hhost] using hturn, rfl⟩

/-- Settles O41: both steps are the transaction at the same state, with the same effect on the block. -/
theorem masterHasNoEffect : Obligations.MasterHasNoEffect := by
  unfold Obligations.MasterHasNoEffect
  intro s m m' width off acc hnext
  exact ⟨_, _, step_of_nextIs hnext, step_of_nextIs (nextIs_of_replaced_head hnext m' width off acc),
    sameBlock_transact s.popHost m m' width off acc⟩

/-! ### What lowers irq (R111, R113) -/

/-- Settles O48: irq is IE AND DONE; an ACK, an accept and a reset lower DONE, DI and a reset lower IE, and no other
event lowers either. -/
theorem interruptFallsOnlyByAckAcceptResetOrDisable : Obligations.InterruptFallsOnlyByAckAcceptResetOrDisable := by
  unfold Obligations.InterruptFallsOnlyByAckAcceptResetOrDisable
  intro s t h hhigh hlow
  obtain ⟨hie, hdone⟩ := s.irq_eq_true_iff.mp hhigh
  have hnot : ¬ (t.ie = true ∧ t.done = true) := fun ht => by simp [t.irq_eq_true_iff.mpr ht] at hlow
  cases step_blockEvent h with
  | completion r k _ _ ht =>
    obtain ⟨hfinished, -⟩ := (s.afterDraws k).finish_frame r
    exact absurd ⟨by rw [ht, State.finish_ie, State.afterDraws_ie, hie], ht ▸ hfinished⟩ hnot
  | quiet hkeep => exact absurd ⟨hkeep.ie.trans hie, hkeep.done.trans hdone⟩ hnot
  | drop _ _ _ _ ht =>
    subst ht
    exact absurd ⟨hie, hdone⟩ hnot
  | statusWrite m w hnext ht =>
    subst ht
    exact .inl ⟨m, w, hnext, by simpa [hie, hdone] using hnot⟩
  | accept m w hnext hidle _ => exact .inr (.inl ⟨hidle, m, w, hnext⟩)
  | reset _ hreset _ _ => exact .inr (.inr (.inl hreset))
  | enableWrite m w hnext hbit1 ht =>
    subst ht
    exact .inr (.inr (.inr ⟨m, w, hnext, hbit1, by simpa [hdone] using hnot⟩))

end Sys2Proof.Machine

/-! # Reset: the reset input, and the state after reset (70_reset_and_hazards.md) -/

namespace Sys2Proof.Machine

open Sys2Proof.Claims

/-- Settles O32: the reset input's step is the block reset of the state it is taken from (R122), which keeps the
fault set. -/
theorem resetInputResetsBlock : Obligations.ResetInputResetsBlock := by
  unfold Obligations.ResetInputResetsBlock
  intro s hturn hhead
  obtain ⟨rest, hhost⟩ := List.head?_eq_some_iff.mp hhead
  exact ⟨s.popHost.blockReset, step_of_resetInput hturn hhost, State.blockReset_atReset _, rfl⟩

/-- The reset state has the reset values (R123): its block reset differs from it in the latches and the model's own
fields alone, and `atReset` reads neither. -/
theorem State.reset_atReset : atReset State.reset :=
  State.reset.blockReset_atReset

theorem State.isReset_reset : State.reset.isReset := rfl

/-- Settles O33: the reset state has the reset values, and it is itself a reset state, from which a run may start. -/
theorem resetStateValues : Obligations.ResetStateValues := by
  unfold Obligations.ResetStateValues
  exact ⟨State.reset_atReset, State.launch_of_isReset State.isReset_reset⟩

/-- Settles O53: every reset state meets the invariant, and `State.reset` is one. -/
theorem invHoldsAtReset : Obligations.InvHoldsAtReset := by
  unfold Obligations.InvHoldsAtReset
  exact State.inv_of_isReset State.isReset_reset

end Sys2Proof.Machine
